-- ==== Sys2Proof/Word.lean ====
section
/-! DEFINITION. The words of the CrcXX core and its three enumerations: the selected width, the selected result
format and the cause of a fault. -/

namespace Sys2Proof

/-- A buffer element: "a sequence of raw 8-bit units" (20_memory.md R32), and one character of a hex string (R79). -/
abbrev Byte := BitVec 8

/-- A command word, port `cmd[9:0]` (30_encoding.md R42). -/
abbrev CmdWord := BitVec 10

/-- The accumulator register `acc` (10_state.md R14). -/
abbrev Acc := BitVec 32

/-- The result bus and register `res` (10_state.md R21). -/
abbrev Bus := BitVec 64

/-- The document's `Width`, one of two values (00_scope.md R5; no other can be held: 10_state.md R17). -/
inductive Width where
  /-- width 16: the CRC-16 generator -/
  | w16
  /-- width 32: the CRC-32 generator -/
  | w32
  deriving DecidableEq, Repr

/-- The document's `OutputFormat`, one of two values (43_transaction.md R104; 41_formatter.md R85). -/
inductive Format where
  /-- the checksum as an unsigned integer of the selected width -/
  | integer
  /-- the checksum as a lowercase, zero-padded hexadecimal string -/
  | hexString
  deriving DecidableEq, Repr

/-- The five causes of a protocol fault (60_exceptions.md R123; five constructors: 93_implementation_defined.md U15). -/
inductive FaultCode where
  /-- code 1: a BYTE command when no transaction is open -/
  | byteOutside
  /-- code 2: a FINISH command when no transaction is open -/
  | finishOutside
  /-- code 3: a START command when a transaction is open -/
  | startInside
  /-- code 4: a word with opcode 0 -/
  | reservedOpcode
  /-- code 5: a START or FINISH shape with a non-zero must-be-zero field -/
  | reservedField
  deriving DecidableEq, Repr

/-- `W` as a number, 16 or 32 (00_scope.md R5). -/
abbrev Width.bits : Width → Nat
  | .w16 => 16
  | .w32 => 32

end Sys2Proof
end

