-- ==== Sys2Proof/Config.lean ====
section
/-! DEFINITION. The parameter record of one generator. The spec leaves no parameter open (00_scope.md section 4), so
there is no free value; the two instances of the record are in Machine/Crc.lean. -/

namespace Sys2Proof

/-- The parameters of an `n`-bit generator (00_scope.md R6 and R9). Both reflection flags are true for both widths
(R7) and cannot be switched (10_state.md R19), so they are no fields: 40_crc_generators.md R60 reflects always. -/
structure CrcParams (n : Nat) where
  /-- `POLY_W`, in normal notation with the top term left out -/
  poly : BitVec n
  /-- `INIT_W`, the start value of the normal-form register -/
  init : BitVec n
  /-- `XOROUT_W`, XORed into the final register -/
  xorOut : BitVec n
  deriving DecidableEq, Repr

end Sys2Proof
end

