-- ==== Sys2Proof/Syntax.lean ====
section
/-! DEFINITION. The commands of the core, one constructor per row of spec/opcode_table.json. -/

namespace Sys2Proof

/-- The three commands (30_encoding.md R43). Reserved words are no commands (R50): they are the decoder's other
answer. The words COMPUTE and COMPUTE_TEXT are assembler notation for sequences of these (R53, R54). -/
inductive Instr where
  /-- START(W, F): opens a transaction (42_commands.md R87) -/
  | start (w : Width) (f : Format)
  /-- BYTE(d): absorbs one byte of the buffer (42_commands.md R90) -/
  | byte (d : Byte)
  /-- FINISH: renders the checksum and closes the transaction (42_commands.md R93) -/
  | finish
  deriving DecidableEq, Repr

end Sys2Proof
end

