-- ==== Sys2Proof/WellFormed.lean ====
section
/-! DEFINITION. What is well formed: a command, a command word (by the opcode table's match and mask) and a sequence
of commands. -/

namespace Sys2Proof

/-- Every command is well formed: its fields are enumerations and a byte, so that "invalid configurations are
unrepresentable" (10_state.md R17, R18; 30_encoding.md R45, R46, R48). -/
def Instr.wellFormed : Instr → Bool
  | .start _ _ => true
  | .byte _ => true
  | .finish => true

/-- The word matches the row of START (30_encoding.md, table after R51). -/
def matchesStart (c : CmdWord) : Bool := c &&& 0x3FC#10 == 0x100#10

/-- The word matches the row of BYTE (30_encoding.md, table after R51). -/
def matchesByte (c : CmdWord) : Bool := c &&& 0x300#10 == 0x200#10

/-- The word matches the row of FINISH (30_encoding.md, table after R51). -/
def matchesFinish (c : CmdWord) : Bool := c &&& 0x3FF#10 == 0x300#10

/-- The word matches a row of the opcode table: it is no reserved word (30_encoding.md R50). -/
def wordWellFormed (c : CmdWord) : Bool := matchesStart c || matchesByte c || matchesFinish c

/-- The commands are accepted without a fault from a phase with a transaction open (`inside = true`) or none open, and
end with none open: from IDLE these are the words of `(START BYTE* FINISH)*` (42_commands.md R97,
70_reset_and_hazards.md R144). -/
def legalOrder (inside : Bool) : List Instr → Bool
  | [] => !inside
  | .start _ _ :: is => !inside && legalOrder true is
  | .byte _ :: is => inside && legalOrder true is
  | .finish :: is => inside && legalOrder false is

end Sys2Proof
end

