-- ==== Sys2Proof/Decode.lean ====
section
/-! DEFINITION. Decoding of a command word, total on all 1024 words, and the encoder, both written from
30_encoding.md. -/

namespace Sys2Proof

/-- What a word decodes to: a command, or a reserved word with the code of the fault it raises (30_encoding.md R47). -/
inductive Decoded where
  /-- a well-formed command -/
  | instr (i : Instr)
  /-- a reserved word: code 4 or 5 -/
  | reserved (c : FaultCode)
  deriving DecidableEq, Repr

/-- The width a `W` field selects (30_encoding.md R45). -/
def widthOfBit (b : BitVec 1) : Width := if b = 0#1 then .w16 else .w32

/-- The `W` field of a width (30_encoding.md R45). -/
def widthBit : Width → BitVec 1
  | .w16 => 0#1
  | .w32 => 1#1

/-- The format an `F` field selects (30_encoding.md R46). -/
def formatOfBit (b : BitVec 1) : Format := if b = 0#1 then .integer else .hexString

/-- The `F` field of a format (30_encoding.md R46). -/
def formatBit : Format → BitVec 1
  | .integer => 0#1
  | .hexString => 1#1

/-- `op = cmd[9:8]` (30_encoding.md R42). -/
def opField (c : CmdWord) : BitVec 2 := c.extractLsb' 8 2

/-- `arg = cmd[7:0]` (30_encoding.md R42). -/
def argField (c : CmdWord) : Byte := c.extractLsb' 0 8

/-- The procedure of 30_encoding.md R47, in the order written there: the opcode before the must-be-zero fields. -/
def decode (c : CmdWord) : Decoded :=
  if opField c = 0b00#2 then .reserved .reservedOpcode
  else if opField c = 0b01#2 then
    if (argField c).extractLsb' 2 6 ≠ 0#6 then .reserved .reservedField
    else .instr (.start (widthOfBit ((argField c).extractLsb' 0 1)) (formatOfBit ((argField c).extractLsb' 1 1)))
  else if opField c = 0b10#2 then .instr (.byte (argField c))
  else if argField c ≠ 0#8 then .reserved .reservedField
  else .instr .finish

/-- The command of a word, none for a reserved word. -/
def Decoded.instr? : Decoded → Option Instr
  | .instr i => some i
  | .reserved _ => none

/-- The word of a command (30_encoding.md R44, R48, R49). -/
def encode : Instr → CmdWord
  | .start w f => 0b01#2 ++ 0b000000#6 ++ formatBit f ++ widthBit w
  | .byte d => 0b10#2 ++ d
  | .finish => 0b11#2 ++ 0b00000000#8

/-- The command word that stands in the low bits of a table word: the opcode table counts its rows in whole bytes
(`nbits`), and the port `cmd[9:0]` has ten wires (30_encoding.md R42); bits above bit 9 are that count's padding
(log entry 3). -/
def tableWord (nbits w : Nat) : CmdWord := (BitVec.ofNat nbits w).setWidth 10

/-- The instruction the decoder reads from a table word; none where it answers a reserved word. -/
def decodeTableWord (nbits w : Nat) : Option Instr := (decode (tableWord nbits w)).instr?

end Sys2Proof
end

