-- ==== Sys2Proof/Machine/Crc.lean ====
section
/-! DEFINITION. The CRC-16 and CRC-32 generators (40_crc_generators.md): the normal form, which defines them, and the
reflected form and the table form, which the hardware may run. -/

namespace Sys2Proof.Machine

open Sys2Proof

/-- `reflect_N(v)`: bit `i` of the result is bit `N-1-i` of `v` (40_crc_generators.md R58). -/
def reflect {n : Nat} (v : BitVec n) : BitVec n := v.reverse

/-- The parameters of the CRC-16 generator (00_scope.md R6, R9; 40_crc_generators.md R61). -/
def params16 : CrcParams 16 where
  poly := 0x8005#16
  init := 0x0000#16
  xorOut := 0x0000#16

/-- The parameters of the CRC-32 generator (00_scope.md R6, R9; 40_crc_generators.md R61). -/
def params32 : CrcParams 32 where
  poly := 0x04C11DB7#32
  init := 0xFFFFFFFF#32
  xorOut := 0xFFFFFFFF#32

/-- The parameters of the selected generator (40_crc_generators.md R61: no third instance exists). -/
def params : (w : Width) → CrcParams w.bits
  | .w16 => params16
  | .w32 => params32

/-! ### Normal form -/

/-- One shift-left step of the normal form: XOR the polynomial when a 1 leaves the top (40_crc_generators.md R60). -/
def normalShift {n : Nat} (poly reg : BitVec n) : BitVec n :=
  if reg.msb then (reg <<< 1) ^^^ poly else reg <<< 1

/-- One byte of the normal form: the reversed byte into the top eight bits, then eight shift steps (R60). -/
def normalByte {n : Nat} (p : CrcParams n) (reg : BitVec n) (d : Byte) : BitVec n :=
  (normalShift p.poly)^[8] (reg ^^^ ((reflect d).setWidth n <<< (n - 8)))

/-- The normal-form register after the bytes of `buf`, in ascending index (R60; 20_memory.md R33). -/
def normalRegister {n : Nat} (p : CrcParams n) (buf : List Byte) : BitVec n :=
  buf.foldl (normalByte p) p.init

/-- `crc_W(buf)` (40_crc_generators.md R60). -/
def crcOf {n : Nat} (p : CrcParams n) (buf : List Byte) : BitVec n :=
  reflect (normalRegister p buf) ^^^ p.xorOut

/-- `crc_W` of the selected generator (40_crc_generators.md R61). -/
def crc (w : Width) (buf : List Byte) : BitVec w.bits := crcOf (params w) buf

/-- The CRC-16 generator (40_crc_generators.md R61). -/
def crc16 (buf : List Byte) : BitVec 16 := crcOf params16 buf

/-- The CRC-32 generator (40_crc_generators.md R61). -/
def crc32 (buf : List Byte) : BitVec 32 := crcOf params32 buf

/-! ### Reflected form -/

/-- `RPOLY_W` (40_crc_generators.md R62). -/
def rpoly {n : Nat} (p : CrcParams n) : BitVec n := reflect p.poly

/-- One shift-right step of the reflected form: XOR the reflected polynomial when a 1 leaves the bottom (R63). -/
def reflectedShift {n : Nat} (rp a : BitVec n) : BitVec n :=
  if a.getLsbD 0 then (a >>> 1) ^^^ rp else a >>> 1

/-- `upd_W(a, d)` (40_crc_generators.md R63). -/
def upd {n : Nat} (p : CrcParams n) (a : BitVec n) (d : Byte) : BitVec n :=
  (reflectedShift (rpoly p))^[8] (a ^^^ d.setWidth n)

/-- The start value `reflect_W(INIT_W)` of the reflected form (40_crc_generators.md R63). -/
def startValue {n : Nat} (p : CrcParams n) : BitVec n := reflect p.init

/-- `accr_W(buf)`: the left fold of `upd_W` from the start value (40_crc_generators.md R63). -/
def accr {n : Nat} (p : CrcParams n) (buf : List Byte) : BitVec n := buf.foldl (upd p) (startValue p)

/-- `fin_W(a)` (40_crc_generators.md R63). -/
def fin {n : Nat} (p : CrcParams n) (a : BitVec n) : BitVec n := a ^^^ p.xorOut

/-! ### Table form -/

/-- `T_W[k] = upd_W(0, k)` (40_crc_generators.md R65). -/
def tableEntry {n : Nat} (p : CrcParams n) (k : Byte) : BitVec n := upd p 0#n k

/-- The table form of the byte step (40_crc_generators.md R65). -/
def updByTable {n : Nat} (p : CrcParams n) (a : BitVec n) (d : Byte) : BitVec n :=
  (a >>> 8) ^^^ tableEntry p ((a ^^^ d.setWidth n).setWidth 8)

end Sys2Proof.Machine
end

