-- ==== Sys2Proof/Machine/Formatter.lean ====
section
/-! DEFINITION. The result formatter (41_formatter.md): rendering as a tagged value, and its place on the result bus. -/

namespace Sys2Proof.Machine

open Sys2Proof

/-- The tagged result, four cases (41_formatter.md R76). A string is a sequence of 8-bit character codes (R79). -/
inductive Result where
  /-- a 16-bit unsigned integer -/
  | int16 (v : BitVec 16)
  /-- a 32-bit unsigned integer -/
  | int32 (v : BitVec 32)
  /-- the 4 characters of a 16-bit checksum -/
  | hex4 (s : List Byte)
  /-- the 8 characters of a 32-bit checksum -/
  | hex8 (s : List Byte)
  deriving DecidableEq, Repr

/-- `hexdigit(nib)`: the lowercase ASCII digit (41_formatter.md R79). -/
def hexDigit (nib : BitVec 4) : Byte :=
  if nib ≤ 9#4 then 0x30#8 + nib.setWidth 8 else 0x57#8 + nib.setWidth 8

/-- `hex_W(v)`: character `j` is the digit of `v[W-1-4j : W-4-4j]` (41_formatter.md R78). -/
def hexString {n : Nat} (v : BitVec n) : List Byte :=
  (List.range (n / 4)).map fun j => hexDigit (v.extractLsb' (n - 4 - 4 * j) 4)

/-- The number a hex digit character denotes (41_formatter.md R81, the inverse of R79). -/
def digitValue (c : Byte) : Nat := if c.toNat ≤ 0x39 then c.toNat - 0x30 else c.toNat - 0x57

/-- `unhex(s)`: the hex digits read as a number, the first most significant (41_formatter.md R81). -/
def unhex (s : List Byte) : Nat := s.foldl (fun n c => 16 * n + digitValue c) 0

/-- `render(F, W, v)` (41_formatter.md R76, R77). -/
def render : Format → (w : Width) → BitVec w.bits → Result
  | .integer, .w16, v => .int16 v
  | .integer, .w32, v => .int32 v
  | .hexString, .w16, v => .hex4 (hexString v)
  | .hexString, .w32, v => .hex8 (hexString v)

/-- A string on the lanes of the bus: character `k` on `res[8k+7 : 8k]`, every further lane zero (41_formatter.md R83). -/
def packLanes : List Byte → Bus
  | [] => 0#64
  | c :: cs => (packLanes cs <<< 8) ||| c.setWidth 64

/-- `pack(r)` (41_formatter.md R82, R83). -/
def pack : Result → Bus
  | .int16 v => v.setWidth 64
  | .int32 v => v.setWidth 64
  | .hex4 s => packLanes s
  | .hex8 s => packLanes s

/-- Lanes 0 to `count - 1` of the bus (41_formatter.md R84). -/
def lanes (count : Nat) (res : Bus) : List Byte := (List.range count).map fun k => res.extractLsb' (8 * k) 8

/-- `unpack(res, res_width, res_format)` (41_formatter.md R84). -/
def unpack (res : Bus) (width format : BitVec 1) : Result :=
  match formatOfBit format, widthOfBit width with
  | .integer, .w16 => .int16 (res.setWidth 16)
  | .integer, .w32 => .int32 (res.setWidth 32)
  | .hexString, .w16 => .hex4 (lanes 4 res)
  | .hexString, .w32 => .hex8 (lanes 8 res)

end Sys2Proof.Machine
end

