-- ==== Sys2Proof/Machine/Compute.lean ====
section
/-! DEFINITION. The document's one operation, `compute` (43_transaction.md), on which the contract of the hardware
rests. -/

namespace Sys2Proof.Machine

open Sys2Proof

/-- `compute(buf, W, F) = render(F, W, crc_W(buf))` (43_transaction.md R101). -/
def compute (buf : List Byte) (w : Width) (f : Format) : Result := render f w (crc w buf)

/-- The commands of the pseudo-instruction COMPUTE: one START, one BYTE per element, one FINISH (30_encoding.md R53). -/
def computeCommands (w : Width) (f : Format) (buf : List Byte) : List Instr :=
  .start w f :: (buf.map .byte ++ [.finish])

end Sys2Proof.Machine
end

