-- ==== Sys2Proof/Machine/State.lean ====
section
/-! DEFINITION. The state of the block: the record of the seven elements of 10_state.md R13. The state of the machine the
host of this row runs: that record, and the edges that are still to be presented to it. -/

namespace Sys2Proof.Machine

open Sys2Proof

/-- The input ports at one rising edge of `clk` (10_state.md R25). -/
structure Edge where
  /-- `rst`, active high -/
  rst : Bool
  /-- `cmd_valid`: `cmd` carries a command at this edge -/
  cmdValid : Bool
  /-- `cmd[9:0]` -/
  cmd : CmdWord
  deriving DecidableEq, Repr

/-- An input event (10_state.md R27). -/
inductive Event where
  /-- an edge with `rst = 1` -/
  | reset
  /-- an edge with `rst = 0`, `cmd_valid = 1` and this word on `cmd` -/
  | cmd (c : CmdWord)
  /-- an edge with `rst = 0`, `cmd_valid = 0` -/
  | idle
  deriving DecidableEq, Repr

/-- Where the block is in the command protocol (10_state.md R16; its binary encoding is not architectural). -/
inductive Phase where
  /-- no transaction is open -/
  | idle
  /-- a transaction is open -/
  | active
  /-- a fault is recorded -/
  | fault
  deriving DecidableEq, Repr

/-- The complete state of the block: "the record of exactly these" seven elements (10_state.md R13). -/
structure Block where
  /-- `phase` (R16) -/
  phase : Phase
  /-- `cfg_w`, the width selected by the last START (R17) -/
  cfgW : Width
  /-- `cfg_f`, the format selected by the last START (R18) -/
  cfgF : Format
  /-- `acc`, the running CRC in the reflected form (R14) -/
  acc : Acc
  /-- `res_valid`, the result register holds the result of the last completed transaction (R20) -/
  resValid : Bool
  /-- `res`, the result register (R21) -/
  res : Bus
  /-- `fcode`, the cause of the recorded fault, 0 when none (R22) -/
  fcode : BitVec 3
  deriving DecidableEq, Repr

/-- The block beside the input stream it is driven with. The spec's step takes the block's state and one input event
(R27), the host's interface a state alone, so the events still to come stand here; they are no state of the block (log
entry 1). -/
structure State extends Block where
  /-- The model's own: the edges the host has still to present, oldest first (log entry 1). -/
  inputs : List Edge
  deriving DecidableEq, Repr

/-- The machine never stops: "every state and every input event has exactly one next state" (10_state.md R27). The
spec's protocol faults (60_exceptions.md R123) are next states in phase FAULT, so no reason to stop is left and nobody
raises one. -/
inductive Fault where
  deriving DecidableEq, Repr

/-- Why a step has no meaning. -/
inductive Refusal where
  /-- Raised by an arm of `exec` whose instruction has no meaning yet: safe, since it stops where the hardware goes on.
  No arm of this model raises it. -/
  | notModelled (mnemonic : String)
  deriving DecidableEq, Repr

/-- The block after reset (10_state.md R29). `phase`, `res_valid` and `fcode` are the spec's; `cfg_w`, `cfg_f`, `acc` and
`res` are unspecified there and hold the values log entry 2 names (DESIGN CHOICE, unsafe). -/
def Block.reset : Block where
  phase := .idle
  cfgW := .w16
  cfgF := .integer
  acc := 0#32
  resValid := false
  res := 0#64
  fcode := 0#3

/-- The block after reset, to which the host has presented nothing yet (log entry 1). -/
def State.reset : State where
  toBlock := Block.reset
  inputs := []

end Sys2Proof.Machine
end

