-- ==== Sys2Proof/Machine/Operands.lean ====
section
/-! DEFINITION. How the commands' operands reach the accumulator and the result register. -/

namespace Sys2Proof.Machine

open Sys2Proof

/-- The accumulator START loads: `zext_32(reflect_W(INIT_W))` (42_commands.md R87). -/
def loadedAcc (w : Width) : Acc := (startValue (params w)).setWidth 32

/-- The accumulator after BYTE: the CRC-16 step on `acc[15:0]` with the upper half written zero (42_commands.md R91),
or the CRC-32 step (R92). -/
def absorbedAcc (w : Width) (acc : Acc) (d : Byte) : Acc :=
  match w with
  | .w16 => (upd params16 (acc.setWidth 16) d).setWidth 32
  | .w32 => upd params32 acc d

/-- The checksum FINISH finalises: `fin_W(acc[W-1:0])` (42_commands.md R93). -/
def finalChecksum (w : Width) (acc : Acc) : BitVec w.bits := fin (params w) (acc.setWidth w.bits)

/-- The value FINISH writes to `res`: `pack(render(F, W, v))` (42_commands.md R93 to R95). -/
def finishedRes (w : Width) (f : Format) (acc : Acc) : Bus := pack (render f w (finalChecksum w acc))

end Sys2Proof.Machine
end

