-- ==== Sys2Proof/Machine/Ops.lean ====
section
/-! DEFINITION. The operations every step is made of: reading the next edge, the phase check, taking a fault, and
leaving it by reset. -/

namespace Sys2Proof.Machine

open Sys2Proof

/-! ### The input ports -/

/-- What the block sees at an edge: reset has priority over a command, and `cmd` is ignored without `cmd_valid`
(70_reset_and_hazards.md R137, 42_commands.md R96, 10_state.md R27). -/
def Edge.event (e : Edge) : Event :=
  if e.rst then .reset else if e.cmdValid then .cmd e.cmd else .idle

/-- An edge that presents a command word. -/
def Edge.ofCmd (c : CmdWord) : Edge where
  rst := false
  cmdValid := true
  cmd := c

/-- An edge that presents nothing. -/
def Edge.quiet : Edge where
  rst := false
  cmdValid := false
  cmd := 0#10

/-- An edge with `rst = 1`. -/
def Edge.ofReset : Edge where
  rst := true
  cmdValid := false
  cmd := 0#10

/-- The event of the next edge. A host that presents nothing more leaves `rst` and `cmd_valid` at 0 (log entry 1). -/
def nextEvent (s : State) : Event :=
  match s.inputs with
  | [] => .idle
  | e :: _ => e.event

/-- The state once the next edge has been taken from the input stream. -/
def consumeEdge (s : State) : State := { s with inputs := s.inputs.tail }

/-- The state in which the next edge presents the word `c`. -/
def presentWord (c : CmdWord) (s : State) : State := { s with inputs := Edge.ofCmd c :: s.inputs }

/-- What an event does to the block, on the whole state: the edges still to come are not touched. -/
def State.onBlock (s : State) (g : Block → Block) : State := { s with toBlock := g s.toBlock }

/-! ### Faults -/

/-- The 3-bit code of a cause (60_exceptions.md R123). -/
def faultBits : FaultCode → BitVec 3
  | .byteOutside => 1#3
  | .finishOutside => 2#3
  | .startInside => 3#3
  | .reservedOpcode => 4#3
  | .reservedField => 5#3

/-- Fault entry, `raise Fault(c)` (60_exceptions.md R126): these three writes and nothing else; nothing is saved and
control goes nowhere. -/
def raiseFault (c : FaultCode) (b : Block) : Block :=
  { b with phase := .fault, fcode := faultBits c, resValid := false }

/-- The phase check (42_commands.md R86): what the command does in IDLE, what it does in ACTIVE, and no effect in FAULT
(60_exceptions.md R127). -/
def byPhase (onIdle onActive : Block → Block) (b : Block) : Block :=
  match b.phase with
  | .idle => onIdle b
  | .active => onActive b
  | .fault => b

/-- An accepted reserved word (30_encoding.md R50): it faults in IDLE and ACTIVE alike. -/
def reservedWord (c : FaultCode) (b : Block) : Block := byPhase (raiseFault c) (raiseFault c) b

/-! ### Reset and idle steps -/

/-- The reset step (70_reset_and_hazards.md R138), the only exit from phase FAULT (60_exceptions.md R128): the state
after it is that of 10_state.md R29, with the unspecified elements as log entry 2 names them. -/
def resetStep (_ : Block) : Block := Block.reset

/-- The idle step changes no state element (42_commands.md R96). -/
def idleStep (b : Block) : Block := b

end Sys2Proof.Machine
end

