-- ==== Sys2Proof/Machine/Commands.lean ====
section
/-! DEFINITION. What the three commands do to the block, the block's step on an input event, and the meanings of the
commands (42_commands.md). -/

namespace Sys2Proof.Machine

open Sys2Proof

/-! ### The effects on the block -/

/-- START in IDLE (42_commands.md R87): it reads no state but `phase` and writes these five elements. -/
def openTransaction (w : Width) (f : Format) (b : Block) : Block :=
  { b with cfgW := w, cfgF := f, acc := loadedAcc w, resValid := false, phase := .active }

/-- BYTE in ACTIVE (42_commands.md R90): it writes `acc` only. -/
def absorbByte (d : Byte) (b : Block) : Block := { b with acc := absorbedAcc b.cfgW b.acc d }

/-- FINISH in ACTIVE (42_commands.md R93). -/
def closeTransaction (b : Block) : Block :=
  { b with res := finishedRes b.cfgW b.cfgF b.acc, resValid := true, phase := .idle }

/-- START(W, F) (42_commands.md R86 to R89): in ACTIVE it is no restart, it faults with code 3. -/
def startStep (w : Width) (f : Format) : Block → Block := byPhase (openTransaction w f) (raiseFault .startInside)

/-- BYTE(d) (42_commands.md R86, R90 to R92): in IDLE it faults with code 1. -/
def byteStep (d : Byte) : Block → Block := byPhase (raiseFault .byteOutside) (absorbByte d)

/-- FINISH (42_commands.md R86, R93 to R95): in IDLE it faults with code 2. -/
def finishStep : Block → Block := byPhase (raiseFault .finishOutside) closeTransaction

/-- The step function of the spec, on the seven elements and one input event (10_state.md R13, R27). -/
def blockStep (ev : Event) (b : Block) : Block :=
  match ev with
  | .reset => resetStep b
  | .idle => idleStep b
  | .cmd c =>
    match decode c with
    | .instr (.start w f) => startStep w f b
    | .instr (.byte d) => byteStep d b
    | .instr .finish => finishStep b
    | .reserved code => reservedWord code b

/-! ### The meanings -/

/-- START(W, F) answers a next state in every phase (42_commands.md R86). -/
def execStart (w : Width) (f : Format) (s : State) : Host.Outcome State Fault Refusal :=
  .next (s.onBlock (startStep w f))

/-- BYTE(d) answers a next state in every phase (42_commands.md R86). -/
def execByte (d : Byte) (s : State) : Host.Outcome State Fault Refusal := .next (s.onBlock (byteStep d))

/-- FINISH answers a next state in every phase (42_commands.md R86). -/
def execFinish (s : State) : Host.Outcome State Fault Refusal := .next (s.onBlock finishStep)

end Sys2Proof.Machine
end

