-- ==== Sys2Proof/Machine/Dispatch.lean ====
section
/-! DEFINITION. One arm per constructor of Instr. -/

namespace Sys2Proof.Machine

open Sys2Proof

def exec (i : Instr) (s : State) : Host.Outcome State Fault Refusal :=
  match i with
  | .start w f => Sys2Proof.Machine.execStart w f s
  | .byte d => Sys2Proof.Machine.execByte d s
  | .finish => Sys2Proof.Machine.execFinish s

end Sys2Proof.Machine
end

