-- ==== Sys2Proof/Machine/Step.lean ====
section
/-! DEFINITION. The step: one edge of the input stream (10_state.md R27). -/

namespace Sys2Proof.Machine

open Sys2Proof

/-- The step function of 10_state.md R27 on the whole state and one input event: a command runs its `exec`. -/
def stepEvent (ev : Event) (s : State) : Host.Outcome State Fault Refusal :=
  match ev with
  | .reset => .next (s.onBlock resetStep)
  | .idle => .next (s.onBlock idleStep)
  | .cmd c =>
    match decode c with
    | .instr i => exec i s
    | .reserved code => .next (s.onBlock (reservedWord code))

/-- One step: the next edge is taken from the input stream and processed. -/
def step (s : State) : Host.Outcome State Fault Refusal := stepEvent (nextEvent s) (consumeEdge s)

/-- `s` with the host presenting this word at the next edge; the block fetches nothing (10_state.md R15), so the port
`cmd` is where its next command stands (log entry 3). -/
def State.withFetchWord (s : State) (nbits w : Nat) : State := presentWord (tableWord nbits w) s

end Sys2Proof.Machine
end

