-- ==== Sys2Proof/Machine/Flags.lean ====
section
/-! DEFINITION. The output ports, functions of the block's state alone (10_state.md R23, R24). -/

namespace Sys2Proof.Machine

open Sys2Proof

/-- The output ports. A port that is `absent` has no value (10_state.md R24). -/
structure Outputs where
  /-- `busy` -/
  busy : Bool
  /-- `fault` -/
  fault : Bool
  /-- `fcode[2:0]` -/
  fcode : BitVec 3
  /-- `res_valid` -/
  resValid : Bool
  /-- `res[63:0]`, absent when `res_valid = 0` -/
  res : Option Bus
  /-- `res_width`, absent when `res_valid = 0` -/
  resWidth : Option (BitVec 1)
  /-- `res_format`, absent when `res_valid = 0` -/
  resFormat : Option (BitVec 1)
  deriving DecidableEq, Repr

/-- `busy` (10_state.md R23). -/
def busyFlag (b : Block) : Bool := b.phase == .active

/-- `fault` (10_state.md R23). -/
def faultFlag (b : Block) : Bool := b.phase == .fault

/-- A port that has a value only when `res_valid = 1` (10_state.md R24). -/
def whileValid {α : Type} (b : Block) (v : α) : Option α := if b.resValid then some v else none

/-- All output ports (10_state.md R23, R24). -/
def outputs (b : Block) : Outputs where
  busy := busyFlag b
  fault := faultFlag b
  fcode := b.fcode
  resValid := b.resValid
  res := whileValid b b.res
  resWidth := whileValid b (widthBit b.cfgW)
  resFormat := whileValid b (formatBit b.cfgF)

/-- The tagged result a host reads off the ports (41_formatter.md R84): none while they are absent. -/
def readResult (o : Outputs) : Option Result :=
  match o.res, o.resWidth, o.resFormat with
  | some r, some w, some f => some (unpack r w f)
  | _, _, _ => none

end Sys2Proof.Machine
end

