-- ==== Sys2Proof/Machine/Assembler.lean ====
section
/-! DEFINITION. The assembler notation of 30_encoding.md section 5 (R52 to R55): one line of text becomes edges of the
input stream, or is an assembly error and becomes none. -/

namespace Sys2Proof.Machine

open Sys2Proof

/-- The output ports a listing's EXPECT line can name (10_state.md R23, R24). -/
inductive Port where
  | busy | fault | fcode | resValid | res | resWidth | resFormat
  deriving DecidableEq, Repr

/-- One source line. -/
inductive Line where
  /-- START, BYTE or FINISH (R52) -/
  | instr (i : Instr)
  /-- `IDLE [<count>]`: idle steps, no command (R52) -/
  | idle (count : Nat)
  /-- `RESET`: one step with `rst = 1`, no command (R52) -/
  | reset
  /-- `WORD <10-bit value>`: any raw command word (R52) -/
  | word (c : CmdWord)
  /-- `COMPUTE` and `COMPUTE_TEXT` (R53, R54) -/
  | compute (w : Width) (f : Format) (buf : List Byte)
  /-- `EXPECT <port> = <value>, ...`: a statement about the outputs, no edge (section 5, last paragraph) -/
  | expect (checks : List (Port × Nat))
  /-- an empty line or a comment -/
  | blank
  deriving DecidableEq, Repr

/-- The edges a line puts on the input ports. -/
def Line.edges : Line → List Edge
  | .instr i => [Edge.ofCmd (encode i)]
  | .idle count => List.replicate count Edge.quiet
  | .reset => [Edge.ofReset]
  | .word c => [Edge.ofCmd c]
  | .compute w f buf => (computeCommands w f buf).map fun i => Edge.ofCmd (encode i)
  | .expect _ => []
  | .blank => []

/-- The number on a port, none while the port is absent. -/
def portValue (o : Outputs) : Port → Option Nat
  | .busy => some o.busy.toNat
  | .fault => some o.fault.toNat
  | .fcode => some o.fcode.toNat
  | .resValid => some o.resValid.toNat
  | .res => o.res.map BitVec.toNat
  | .resWidth => o.resWidth.map BitVec.toNat
  | .resFormat => o.resFormat.map BitVec.toNat

/-- What an EXPECT line states of the outputs after the preceding step. -/
def expectHolds (checks : List (Port × Nat)) (o : Outputs) : Bool :=
  checks.all fun pv => portValue o pv.1 == some pv.2

/-! ### Tokens -/

/-- A token of a source line; the letters of a word are lower case, since "letters are case-insensitive" (R52). -/
inductive Token where
  | word (s : List Char)
  | char (c : Char)
  | text (s : List Char)
  | comma
  | equals
  deriving DecidableEq, Repr

/-- Where the reader stands within a line; collected characters are held last first. -/
inductive LexMode where
  | between
  | inWord (rev : List Char)
  | charOpen
  | charClose (c : Char)
  | inText (rev : List Char)
  deriving DecidableEq, Repr

/-- The character `'`, which stands around a byte operand. -/
def apostrophe : Char := Char.ofNat 0x27

/-- The character that stands around the operand of COMPUTE_TEXT. -/
def doubleQuote : Char := Char.ofNat 0x22

/-- A character of a mnemonic, an operand name or a number. -/
def isWordChar (c : Char) : Bool := c.isAlphanum || c == '_'

/-- A character seen between tokens: the tokens it completes and the mode it leads to; none where a comment begins. -/
def beginToken (c : Char) : Option (List Token × LexMode) :=
  if c == ';' then none
  else if c == ',' then some ([.comma], .between)
  else if c == '=' then some ([.equals], .between)
  else if c == apostrophe then some ([], .charOpen)
  else if c == doubleQuote then some ([], .inText [])
  else if c.isWhitespace then some ([], .between)
  else some ([], .inWord [c])

/-- The word whose characters were collected. -/
def wordToken (rev : List Char) : Token := .word (rev.reverse.map Char.toLower)

/-- The tokens of a line, none where a quote is left open. -/
def lex : LexMode → List Char → Option (List Token)
  | .between, [] => some []
  | .inWord rev, [] => some [wordToken rev]
  | .charOpen, [] => none
  | .charClose _, [] => none
  | .inText _, [] => none
  | .between, c :: cs =>
    match beginToken c with
    | none => some []
    | some (ts, m) => (lex m cs).map (ts ++ ·)
  | .inWord rev, c :: cs =>
    if isWordChar c then lex (.inWord (c :: rev)) cs
    else match beginToken c with
      | none => some [wordToken rev]
      | some (ts, m) => (lex m cs).map (wordToken rev :: ts ++ ·)
  | .charOpen, c :: cs => lex (.charClose c) cs
  | .charClose c, c' :: cs => if c' == apostrophe then (lex .between cs).map (.char c :: ·) else none
  | .inText rev, c :: cs =>
    if c == doubleQuote then (lex .between cs).map (.text rev.reverse :: ·) else lex (.inText (c :: rev)) cs

/-! ### Operands -/

/-- The value of a digit in the given base. -/
def charDigit (base : Nat) (c : Char) : Option Nat :=
  let v := if c.isDigit then c.toNat - 0x30 else if 'a' ≤ c ∧ c ≤ 'f' then c.toNat - 0x57 else base
  if v < base then some v else none

/-- The digits read as a number, on top of the value read so far. -/
def readDigits (base : Nat) (value : Nat) : List Char → Option Nat
  | [] => some value
  | c :: cs => (charDigit base c).bind fun d => readDigits base (base * value + d) cs

/-- A number, `0x...` hexadecimal or decimal: the two numeral forms of `<byte>` (R52). DESIGN CHOICE: any count of digits
may be written, leading zeros among them (log entry 8). -/
def readNumber : List Char → Option Nat
  | [] => none
  | '0' :: 'x' :: c :: cs => readDigits 16 0 (c :: cs)
  | c :: cs => readDigits 10 0 (c :: cs)

/-- A number in the spec's own notation, `0x...` hexadecimal, `0b...` binary, "anything else decimal" (00_scope.md section
6). DESIGN CHOICE: R52 gives the operands of WORD and IDLE, and section 5 the values of EXPECT, no numeral form, and the
reader takes these three for each (log entry 8). -/
def readValue : List Char → Option Nat
  | '0' :: 'b' :: c :: cs => readDigits 2 0 (c :: cs)
  | cs => readNumber cs

/-- A number as a value of `n` bits: a byte operand is 0 to 255, the operand of WORD a 10-bit value (R52). DESIGN CHOICE: a
number above that is an assembly error and is not truncated (log entry 8). -/
def fitBits (n v : Nat) : Option (BitVec n) := if v < 2 ^ n then some (BitVec.ofNat n v) else none

/-- A byte operand: a number 0 to 255, or one printable ASCII character (R52). -/
def readByte : Token → Option Byte
  | .char c => if 0x20 ≤ c.toNat ∧ c.toNat ≤ 0x7E then some (BitVec.ofNat 8 c.toNat) else none
  | .word s => (readNumber s).bind (fitBits 8)
  | _ => none

/-- The bytes of a text operand, one per character, no terminator (R54); a character outside ASCII is an assembly
error (log entry 4). -/
def readText : List Char → Option (List Byte)
  | [] => some []
  | c :: cs => if c.toNat ≤ 0x7F then (readText cs).map (BitVec.ofNat 8 c.toNat :: ·) else none

/-- A width operand: nothing but `w16` and `w32` is accepted (R55). -/
def readWidth : Token → Option Width
  | .word s => if s = "w16".toList then some .w16 else if s = "w32".toList then some .w32 else none
  | _ => none

/-- A format operand: nothing but `int` and `hex` is accepted (R55). -/
def readFormat : Token → Option Format
  | .word s => if s = "int".toList then some .integer else if s = "hex".toList then some .hexString else none
  | _ => none

/-- The operands `<width>, <format>` and the tokens after them. -/
def readSelection : List Token → Option (Width × Format × List Token)
  | w :: .comma :: f :: rest => (readWidth w).bind fun w => (readFormat f).map fun f => (w, f, rest)
  | _ => none

/-- The byte operands of COMPUTE, each after a comma (R53). -/
def readBytes : List Token → Option (List Byte)
  | [] => some []
  | .comma :: t :: rest => (readByte t).bind fun b => (readBytes rest).map (b :: ·)
  | _ => none

/-- The port an EXPECT line names. -/
def readPort (s : List Char) : Option Port :=
  if s = "busy".toList then some .busy
  else if s = "fault".toList then some .fault
  else if s = "fcode".toList then some .fcode
  else if s = "res_valid".toList then some .resValid
  else if s = "res".toList then some .res
  else if s = "res_width".toList then some .resWidth
  else if s = "res_format".toList then some .resFormat
  else none

/-- The checks of an EXPECT line, the second and later ones after a comma. -/
def readChecks : List Token → Option (List (Port × Nat))
  | [.word p, .equals, .word v] => (readPort p).bind fun p => (readValue v).map fun v => [(p, v)]
  | .word p :: .equals :: .word v :: .comma :: rest =>
    (readPort p).bind fun p => (readValue v).bind fun v => (readChecks rest).map ((p, v) :: ·)
  | _ => none

/-! ### Lines -/

/-- The operands of a line whose first word is `key`, by the grammar of R52 to R54. DESIGN CHOICE: `IDLE 0` is accepted and
is no step, and a count has no upper bound (log entry 8). -/
def readOperands (key : List Char) (ts : List Token) : Option Line :=
  if key = "start".toList then
    match readSelection ts with
    | some (w, f, []) => some (.instr (.start w f))
    | _ => none
  else if key = "byte".toList then
    match ts with
    | [t] => (readByte t).map fun d => .instr (.byte d)
    | _ => none
  else if key = "finish".toList then
    if ts = [] then some (.instr .finish) else none
  else if key = "idle".toList then
    match ts with
    | [] => some (.idle 1)
    | [.word s] => (readValue s).map .idle
    | _ => none
  else if key = "reset".toList then
    if ts = [] then some .reset else none
  else if key = "word".toList then
    match ts with
    | [.word s] => ((readValue s).bind (fitBits 10)).map .word
    | _ => none
  else if key = "compute".toList then
    (readSelection ts).bind fun sel => (readBytes sel.2.2).map (.compute sel.1 sel.2.1)
  else if key = "compute_text".toList then
    match readSelection ts with
    | some (w, f, [.comma, .text s]) => (readText s).map (.compute w f)
    | _ => none
  else if key = "expect".toList then (readChecks ts).map .expect
  else none

/-- One source line; none is an assembly error, which "produces no command word" (R55). -/
def readLine (cs : List Char) : Option Line :=
  match lex .between cs with
  | some [] => some .blank
  | some (.word key :: ts) => readOperands key ts
  | _ => none

/-- The edges of a listing given line by line; none if any line is an assembly error. -/
def assemble : List (List Char) → Option (List Edge)
  | [] => some []
  | l :: ls => (readLine l).bind fun line => (assemble ls).map (line.edges ++ ·)

end Sys2Proof.Machine
end

