-- ==== Sys2Proof/Machine/Runs.lean ====
section
/-! DEFINITION. Runs: what a stretch of edges presents, how a run ends (70_reset_and_hazards.md R149), and two instances
side by side (20_memory.md R39). -/

namespace Sys2Proof.Machine

open Sys2Proof

/-- The command words a stretch of edges presents, in order, idle edges left out; none if it holds a reset edge
(43_transaction.md R100: "with any number of idle steps before, between and after them", "and no reset"). -/
def presentedWords : List Edge → Option (List CmdWord)
  | [] => some []
  | e :: es =>
    match e.event with
    | .reset => none
    | .idle => presentedWords es
    | .cmd c => (presentedWords es).map (c :: ·)

/-- How a run ends (70_reset_and_hazards.md R149). -/
inductive RunEnd where
  /-- complete, with the result of the run -/
  | complete (r : Result)
  /-- a faulted run, which has no result -/
  | faulted
  /-- an unfinished run: a transaction is still open -/
  | unfinished
  /-- only idle steps since the last reset step -/
  | nothingYet
  deriving DecidableEq, Repr

/-- The end of a run, told by its final state (70_reset_and_hazards.md R149). -/
def runEnd (b : Block) : RunEnd :=
  match b.phase, readResult (outputs b) with
  | .fault, _ => .faulted
  | .active, _ => .unfinished
  | .idle, some r => .complete r
  | .idle, none => .nothingYet

/-- Two instances under a schedule that says which one has the next edge (`true`: the first). Instances share nothing
and have no order between them (20_memory.md R39, 60_exceptions.md R134). -/
def runPair : List Bool → State × State → Host.Outcome (State × State) Fault Refusal
  | [], p => .next p
  | true :: sched, p =>
    match step p.1 with
    | .next a => runPair sched (a, p.2)
    | .fault r => .fault r
    | .refused r => .refused r
  | false :: sched, p =>
    match step p.2 with
    | .next b => runPair sched (p.1, b)
    | .fault r => .fault r
    | .refused r => .refused r

end Sys2Proof.Machine
end

