-- ==== Sys2Proof/Safety.lean ====
section
/-! DEFINITION. The terms claims use: the invariant of the core, and when two states cannot be told apart. -/

namespace Sys2Proof.Machine

open Sys2Proof

/-- What holds in every state reached from reset (10_state.md section 2, R20, R26; 60_exceptions.md R123, R126). -/
structure Block.Inv (b : Block) : Prop where
  /-- a code is recorded exactly in phase FAULT (10_state.md, after the table of R13) -/
  faultRecorded : b.phase = .fault ↔ b.fcode ≠ 0#3
  /-- codes 6 and 7 are never written (60_exceptions.md R123) -/
  codeInRange : b.fcode ≤ 5#3
  /-- in a width-16 transaction the upper half of `acc` is zero (10_state.md R26) -/
  upperZero : b.phase = .active → b.cfgW = .w16 → b.acc.extractLsb' 16 16 = 0#16
  /-- a result is held only while no transaction is open and no fault is recorded (10_state.md R20) -/
  heldIdle : b.resValid = true → b.phase = .idle
  /-- a held result is a rendering in the form its tag names (41_formatter.md R84) -/
  heldRendered : b.resValid = true → ∃ v, b.res = pack (render b.cfgF b.cfgW v)

/-- Two blocks no host can tell apart (10_state.md, after the table of R29): the elements that reach a port or a later
result agree. -/
structure Block.Alike (b c : Block) : Prop where
  phase : b.phase = c.phase
  resValid : b.resValid = c.resValid
  fcode : b.fcode = c.fcode
  /-- `acc`, `cfg_w` and `cfg_f` are read only in phase ACTIVE -/
  open' : b.phase = .active → b.cfgW = c.cfgW ∧ b.cfgF = c.cfgF ∧ b.acc = c.acc
  /-- `res`, `cfg_w` and `cfg_f` reach a port only when `res_valid = 1` -/
  held : b.resValid = true → b.cfgW = c.cfgW ∧ b.cfgF = c.cfgF ∧ b.res = c.res

/-- Two such blocks to which the same edges are still to be presented. -/
structure State.Alike (s t : State) : Prop where
  block : s.toBlock.Alike t.toBlock
  inputs : s.inputs = t.inputs

end Sys2Proof.Machine
end

