-- ==== Sys2Proof/Certificates/Slice0/Obligations.lean ====
section
/-! DEFINITION. The statements for the provers. Each docstring names the rules of spec/ its statement formalises. -/

open Sys2Proof Sys2Proof.Machine

/-! ### Encoding -/

/-- R47: each of the 1024 words, by the ranges the procedure's branches give. -/
def Obligations.DecodeFollowsTheWordRanges : Prop :=
  ∀ c : CmdWord,
    (c.toNat ≤ 0x0FF → decode c = .reserved .reservedOpcode) ∧
    (0x100 ≤ c.toNat → c.toNat ≤ 0x103 →
      decode c = .instr (.start (if c.getLsbD 0 then .w32 else .w16) (if c.getLsbD 1 then .hexString else .integer))) ∧
    (0x104 ≤ c.toNat → c.toNat ≤ 0x1FF → decode c = .reserved .reservedField) ∧
    (0x200 ≤ c.toNat → c.toNat ≤ 0x2FF → decode c = .instr (.byte (c.setWidth 8))) ∧
    (c.toNat = 0x300 → decode c = .instr .finish) ∧
    (0x301 ≤ c.toNat → decode c = .reserved .reservedField)

/-- R44, R48, R49: the words of the three commands, and that each is legal. -/
def Obligations.CommandWordsAreTheSpecs : Prop :=
  (encode (.start .w16 .integer) = 0x100#10 ∧ encode (.start .w32 .integer) = 0x101#10 ∧
    encode (.start .w16 .hexString) = 0x102#10 ∧ encode (.start .w32 .hexString) = 0x103#10) ∧
  (∀ f w, (encode (.start w f)).extractLsb' 8 2 = 0b01#2 ∧ (encode (.start w f)).extractLsb' 2 6 = 0#6 ∧
    (encode (.start w f)).getLsbD 1 = (f == .hexString) ∧ (encode (.start w f)).getLsbD 0 = (w == .w32) ∧
    decode (encode (.start w f)) = .instr (.start w f)) ∧
  (∀ d : Byte, (encode (.byte d)).toNat = 0x200 + d.toNat ∧ (encode (.byte d)).extractLsb' 8 2 = 0b10#2 ∧
    decode (BitVec.ofNat 10 (0x200 + d.toNat)) = .instr (.byte d)) ∧
  encode .finish = 0x300#10 ∧ decode 0x300#10 = .instr .finish

/-- No bit of a command is dropped: decoding the word of a command gives the command back, at every operand. -/
def Obligations.DecodeOfEncodeIsTheCommand : Prop :=
  ∀ i : Instr, i.wellFormed = true → decode (encode i) = .instr i

/-- The other direction: a word that decodes to a command is that command's only word (R50: reserved bits are never
ignored). -/
def Obligations.EncodeOfDecodeIsTheWord : Prop :=
  ∀ (c : CmdWord) (i : Instr), decode c = .instr i → encode i = c

/-- 30_encoding.md, the opcode table after R51: each row selects exactly its command's words, and the rows are
disjoint. -/
def Obligations.OpcodeRowsAreExactAndDisjoint : Prop :=
  ∀ c : CmdWord,
    (matchesStart c = true ↔ ∃ w f, decode c = .instr (.start w f)) ∧
    (matchesByte c = true ↔ ∃ d, decode c = .instr (.byte d)) ∧
    (matchesFinish c = true ↔ decode c = .instr .finish) ∧
    (wordWellFormed c = false ↔ decode c = .reserved (if c.extractLsb' 8 2 = 0#2 then .reservedOpcode else .reservedField)) ∧
    ¬ (matchesStart c = true ∧ matchesByte c = true) ∧ ¬ (matchesStart c = true ∧ matchesFinish c = true) ∧
    ¬ (matchesByte c = true ∧ matchesFinish c = true)

/-- The words of 95_test_vectors.md section 2.7, one of each kind. -/
def Obligations.SampleWordsDecode : Prop :=
  decode 0b0000000000#10 = .reserved .reservedOpcode ∧ decode 0b0100000010#10 = .instr (.start .w16 .hexString) ∧
  decode 0b0110000000#10 = .reserved .reservedField ∧ decode 0b1000110001#10 = .instr (.byte 0x31#8) ∧
  decode 0b1100000000#10 = .instr .finish ∧ decode 0b1100000001#10 = .reserved .reservedField

/-! ### The step -/

/-- R27: a step whose edge presents a word that decodes to a command is that command's `exec`, with the edge taken from
the input stream and nothing else around it. -/
def Obligations.StepRunsTheDecodedCommand : Prop :=
  ∀ (s : State) (e : Edge) (rest : List Edge) (i : Instr),
    s.inputs = e :: rest → e.rst = false → e.cmdValid = true → decode e.cmd = .instr i → i.wellFormed = true →
    step s = exec i { s with inputs := rest }

/-- R50: an accepted reserved word raises the fault of its code in IDLE and ACTIVE and has no effect in FAULT. -/
def Obligations.ReservedWordFaultsOrHasNoEffect : Prop :=
  ∀ (s : State) (e : Edge) (rest : List Edge) (code : FaultCode),
    s.inputs = e :: rest → e.rst = false → e.cmdValid = true → decode e.cmd = .reserved code →
    (code = if e.cmd.extractLsb' 8 2 = 0#2 then .reservedOpcode else .reservedField) ∧
    (s.phase = .idle ∨ s.phase = .active → step s = .next { s with
      inputs := rest, phase := .fault, fcode := (if code = .reservedOpcode then 4#3 else 5#3), resValid := false }) ∧
    (s.phase = .fault → step s = .next { s with inputs := rest })

/-- R137: any number of consecutive edges with `rst = 1`, in any phase, do what one reset step does, whatever `cmd_valid`
and `cmd` are at them: no word is executed or remembered, and the second and later edges change nothing further. -/
def Obligations.ResetEdgeHasPriority : Prop :=
  ∀ (s : State) (es rest : List Edge), es ≠ [] → (∀ e ∈ es, e.rst = true) → s.inputs = es ++ rest →
    ∃ t, stepEvent .reset { s with inputs := rest } = .next t ∧ Host.Core.run core es.length s = .next t

/-- R138, R128: what a reset step writes, from every state, and that no other event leaves phase FAULT. -/
def Obligations.ResetStepWritesAndIsTheOnlyExit : Prop :=
  (∀ s : State, ∃ t, stepEvent .reset s = .next t ∧ t.phase = .idle ∧ t.resValid = false ∧ t.fcode = 0#3 ∧
    t.inputs = s.inputs) ∧
  (∀ (s t : State) (ev : Event), s.phase = .fault → stepEvent ev s = .next t → t.phase ≠ .fault → ev = .reset) ∧
  (∀ (s t : State) (ev : Event), s.phase = .fault → stepEvent ev s = .next t → t.fcode ≠ s.fcode → ev = .reset)

/-- The model's choice (log entry 1): when the host's edges are used up, a step is an idle step. -/
def Obligations.StepWithNothingPresentedIdles : Prop :=
  ∀ s : State, s.inputs = [] → step s = .next s

/-- R27: total and deterministic, on the step function of the spec and on the machine's step. -/
def Obligations.EveryEventHasOneNextState : Prop :=
  (∀ (s : State) (ev : Event), ∃ t, stepEvent ev s = .next t ∧ ∀ t', stepEvent ev s = .next t' → t' = t) ∧
  (∀ s : State, ∃ t, step s = .next t)

/-! ### The commands -/

/-- R86: the whole table of five decode results and three phases, each faulting entry written out. -/
def Obligations.PhaseTable : Prop :=
  ∀ (s : State) (w : Width) (f : Format) (d : Byte),
    (s.phase = .idle → exec (.start w f) s = .next (s.onBlock (openTransaction w f))) ∧
    (s.phase = .idle → exec (.byte d) s = .next { s with phase := .fault, fcode := 1#3, resValid := false }) ∧
    (s.phase = .idle → exec .finish s = .next { s with phase := .fault, fcode := 2#3, resValid := false }) ∧
    (s.phase = .active → exec (.start w f) s = .next { s with phase := .fault, fcode := 3#3, resValid := false }) ∧
    (s.phase = .active → exec (.byte d) s = .next (s.onBlock (absorbByte d))) ∧
    (s.phase = .active → exec .finish s = .next (s.onBlock closeTransaction)) ∧
    (s.phase ≠ .fault →
      s.onBlock (reservedWord .reservedOpcode) = { s with phase := .fault, fcode := 4#3, resValid := false } ∧
      s.onBlock (reservedWord .reservedField) = { s with phase := .fault, fcode := 5#3, resValid := false }) ∧
    (s.phase = .fault → (∀ i, exec i s = .next s) ∧ ∀ code, s.onBlock (reservedWord code) = s)

/-- R87, R88: START in IDLE, its whole next state (so `res`, `fcode` and the input stream are unchanged) and the outputs
after it; a held result is withdrawn. -/
def Obligations.StartOpensATransaction : Prop :=
  ∀ (s : State) (w : Width) (f : Format), s.phase = .idle →
    ∃ t, exec (.start w f) s = .next t ∧
      t = { s with cfgW := w, cfgF := f, acc := (reflect (params w).init).setWidth 32, resValid := false,
                   phase := .active } ∧
      t.acc = (if w = .w16 then 0x00000000#32 else 0xFFFFFFFF#32) ∧
      outputs t.toBlock =
        { busy := true, fault := false, fcode := s.fcode, resValid := false, res := none, resWidth := none,
          resFormat := none }

/-- R91: BYTE with `cfg_w = 0`, its whole next state, in the bit-serial and in the table form, and the corner cases. -/
def Obligations.ByteRunsTheCrc16Step : Prop :=
  ∀ (s : State) (d : Byte), s.phase = .active → s.cfgW = .w16 →
    ∃ t, exec (.byte d) s = .next t ∧
      t = { s with acc := (upd params16 (s.acc.setWidth 16) d).setWidth 32 } ∧
      t.acc.setWidth 16 = (s.acc.setWidth 16 >>> 8) ^^^ printedT16.getD (s.acc.setWidth 8 ^^^ d).toNat 0#16 ∧
      t.acc.extractLsb' 16 16 = 0#16 ∧
      (d = 0#8 → s.acc = 0#32 → t.acc = 0#32) ∧
      (d = s.acc.setWidth 8 → t.acc = (s.acc.setWidth 16 >>> 8).setWidth 32) ∧
      (s.acc = 0#32 → d = 0x31#8 → t.acc = 0x0000D4C1#32) ∧
      (s.acc = 0x0000D4C1#32 → d = 0x32#8 → t.acc = 0x00004594#32)

/-- R92: BYTE with `cfg_w = 1`, its whole next state, in the bit-serial and in the table form, and the corner cases. -/
def Obligations.ByteRunsTheCrc32Step : Prop :=
  ∀ (s : State) (d : Byte), s.phase = .active → s.cfgW = .w32 →
    ∃ t, exec (.byte d) s = .next t ∧
      t = { s with acc := upd params32 s.acc d } ∧
      t.acc = (s.acc >>> 8) ^^^ printedT32.getD (s.acc.setWidth 8 ^^^ d).toNat 0#32 ∧
      (d = 0#8 → (t.acc = s.acc ↔ s.acc = 0#32)) ∧
      (s.acc = 0xFFFFFFFF#32 → d = 0#8 → t.acc = 0x2DFD1072#32) ∧
      (s.acc = 0xFFFFFFFF#32 → d = 0x31#8 → t.acc = 0x7C231048#32) ∧
      (s.acc = 0x7C231048#32 → d = 0x32#8 → t.acc = 0xB0ACBB32#32)

/-- R90: BYTE in ACTIVE completes at every byte and writes `acc` only, and no output port changes. -/
def Obligations.ByteWritesAccOnly : Prop :=
  ∀ (s : State) (d : Byte), s.phase = .active →
    ∃ a : Acc, exec (.byte d) s = .next { s with acc := a } ∧ outputs { s with acc := a }.toBlock = outputs s.toBlock

/-- R93: FINISH in ACTIVE, its whole next state (so `acc`, `cfg_w`, `cfg_f`, `fcode` and the input stream are unchanged)
and the outputs after it. -/
def Obligations.FinishClosesTheTransaction : Prop :=
  ∀ s : State, s.phase = .active →
    ∃ t, exec .finish s = .next t ∧
      t = { s with res := pack (render s.cfgF s.cfgW (s.acc.setWidth s.cfgW.bits ^^^ (params s.cfgW).xorOut)),
                   resValid := true, phase := .idle } ∧
      outputs t.toBlock =
        { busy := false, fault := false, fcode := s.fcode, resValid := true, res := some t.res,
          resWidth := some (if s.cfgW = .w16 then 0#1 else 1#1),
          resFormat := some (if s.cfgF = .integer then 0#1 else 1#1) }

/-- R94: FINISH with `cfg_f = 0` writes the checksum itself. -/
def Obligations.FinishDeliversTheInteger : Prop :=
  ∀ s : State, s.phase = .active → s.cfgF = .integer →
    ∃ t, exec .finish s = .next t ∧
      t.res = (s.acc.setWidth s.cfgW.bits ^^^ (params s.cfgW).xorOut).setWidth 64 ∧
      (s.cfgW = .w16 → s.acc = 0x0000BB3D#32 → t.res = 0x000000000000BB3D#64) ∧
      (s.cfgW = .w32 → s.acc = 0x340BC6D9#32 → t.res = 0x00000000CBF43926#64) ∧
      (s.cfgW = .w32 → s.acc = 0xFFFFFFFF#32 → t.res = 0#64)

/-- R95: FINISH with `cfg_f = 1` writes the lowercase hex digits, the most significant on lane 0, and zero on every
unused lane. -/
def Obligations.FinishDeliversTheHexString : Prop :=
  ∀ s : State, s.phase = .active → s.cfgF = .hexString →
    ∃ t, exec .finish s = .next t ∧
      (∀ k, k < s.cfgW.bits / 4 → t.res.extractLsb' (8 * k) 8 =
        hexDigit ((s.acc.setWidth s.cfgW.bits ^^^ (params s.cfgW).xorOut).extractLsb' (s.cfgW.bits - 4 - 4 * k) 4)) ∧
      (∀ k, s.cfgW.bits / 4 ≤ k → t.res.extractLsb' (8 * k) 8 = 0#8) ∧
      (s.cfgW = .w16 → s.acc = 0x0000BB3D#32 → t.res = 0x0000000064336262#64) ∧
      (s.cfgW = .w32 → s.acc = 0x340BC6D9#32 → t.res = 0x3632393334666263#64) ∧
      (s.cfgW = .w16 → s.acc = 0#32 → t.res = 0x0000000030303030#64)

/-- The table of R13 (written by), R17, R18, R21, R22: which event changes `res`, `cfg_w`, `cfg_f`, `acc` and `fcode`, over
every event but reset. The transitions of `phase` and the life of `res_valid` are statements of their own. -/
def Obligations.OnlyItsWriterChangesAnElement : Prop :=
  ∀ (s t : State) (ev : Event), ev ≠ .reset → stepEvent ev s = .next t →
    t.inputs = s.inputs ∧
    (t.res ≠ s.res → ∃ c, ev = .cmd c ∧ decode c = .instr .finish ∧ s.phase = .active) ∧
    (t.cfgW ≠ s.cfgW ∨ t.cfgF ≠ s.cfgF →
      ∃ c w f, ev = .cmd c ∧ decode c = .instr (.start w f) ∧ s.phase = .idle) ∧
    (t.acc ≠ s.acc → (∃ c w f, ev = .cmd c ∧ decode c = .instr (.start w f) ∧ s.phase = .idle) ∨
      ∃ c d, ev = .cmd c ∧ decode c = .instr (.byte d) ∧ s.phase = .active) ∧
    (t.fcode ≠ s.fcode → s.phase ≠ .fault ∧ t.phase = .fault)

/-- R23, R24: every output port as a function of the state, with the three absent ones, and no path from an input. -/
def Obligations.OutputPortsFollowTheState : Prop :=
  ∀ s : State,
    ((outputs s.toBlock).busy = true ↔ s.phase = .active) ∧ ((outputs s.toBlock).fault = true ↔ s.phase = .fault) ∧
    (outputs s.toBlock).fcode = s.fcode ∧ (outputs s.toBlock).resValid = s.resValid ∧
    (s.resValid = true → (outputs s.toBlock).res = some s.res ∧
      (outputs s.toBlock).resWidth = some (if s.cfgW = .w16 then 0#1 else 1#1) ∧
      (outputs s.toBlock).resFormat = some (if s.cfgF = .integer then 0#1 else 1#1)) ∧
    (s.resValid = false →
      (outputs s.toBlock).res = none ∧ (outputs s.toBlock).resWidth = none ∧ (outputs s.toBlock).resFormat = none) ∧
    ∀ es : List Edge, outputs { s with inputs := es }.toBlock = outputs s.toBlock

/-- R20: `res_valid` from the end of a FINISH step until the next START step, reset or fault entry. -/
def Obligations.ResValidLivesFromFinishToStart : Prop :=
  ∀ (s t : State) (ev : Event), stepEvent ev s = .next t →
    (t.resValid = true ↔
      (∃ c, ev = .cmd c ∧ decode c = .instr .finish ∧ s.phase = .active) ∨
      (s.resValid = true ∧ ev ≠ .reset ∧ ¬ (s.phase ≠ .fault ∧ t.phase = .fault) ∧
        ¬ ∃ c w f, ev = .cmd c ∧ decode c = .instr (.start w f) ∧ s.phase = .idle))

/-! ### Faults -/

/-- R126: a step that enters phase FAULT does exactly the fault entry, with one of the five codes, and shows it on the
ports. -/
def Obligations.FaultEntryDoesExactlyThreeWrites : Prop :=
  ∀ (s t : State) (ev : Event), s.phase ≠ .fault → stepEvent ev s = .next t → t.phase = .fault →
    ∃ code : BitVec 3, 1#3 ≤ code ∧ code ≤ 5#3 ∧
      t = { s with phase := .fault, fcode := code, resValid := false } ∧
      outputs t.toBlock =
        { busy := false, fault := true, fcode := code, resValid := false, res := none, resWidth := none,
          resFormat := none }

/-- R125: encoding before phase and opcode before fields, so that the code is a function of the word and the phase. -/
def Obligations.FaultCodeIsDecidedByWordAndPhase : Prop :=
  ∀ (s : State) (c : CmdWord), s.phase ≠ .fault →
    ∃ t, stepEvent (.cmd c) s = .next t ∧
      if c.toNat ≤ 0x0FF then t.phase = .fault ∧ t.fcode = 4#3
      else if (0x104 ≤ c.toNat ∧ c.toNat ≤ 0x1FF) ∨ 0x301 ≤ c.toNat then t.phase = .fault ∧ t.fcode = 5#3
      else if c.toNat ≤ 0x103 then
        (s.phase = .active → t.phase = .fault ∧ t.fcode = 3#3) ∧ (s.phase = .idle → t.phase ≠ .fault)
      else if c.toNat ≤ 0x2FF then
        (s.phase = .idle → t.phase = .fault ∧ t.fcode = 1#3) ∧ (s.phase = .active → t.phase ≠ .fault)
      else (s.phase = .idle → t.phase = .fault ∧ t.fcode = 2#3) ∧ (s.phase = .active → t.phase ≠ .fault)

/-- R127, R131: over any stretch of edges without a reset, phase FAULT ignores everything and keeps the first cause. -/
def Obligations.FaultIgnoresEverythingUntilReset : Prop :=
  ∀ (s : State) (es rest : List Edge) (ws : List CmdWord),
    s.phase = .fault → s.inputs = es ++ rest → presentedWords es = some ws →
    Host.Core.run core es.length s = .next { s with inputs := rest }

/-! ### Sequencing -/

/-- R97: the complete transition relation of `phase`; and from IDLE the command sequences that leave no transaction open
and no fault recorded are exactly the words of `(START BYTE* FINISH)*`, with idle steps anywhere. -/
def Obligations.PhaseTransitionsAndLegalSequences : Prop :=
  (∀ (s : State) (ev : Event), ∃ t, stepEvent ev s = .next t ∧
    t.phase = match s.phase, ev with
      | _, .reset => .idle
      | p, .idle => p
      | .fault, .cmd _ => .fault
      | .idle, .cmd c => match decode c with
        | .instr (.start _ _) => .active
        | _ => .fault
      | .active, .cmd c => match decode c with
        | .instr (.byte _) => .active
        | .instr .finish => .idle
        | _ => .fault) ∧
  ∀ (s : State) (es rest : List Edge) (is : List Instr),
    s.phase = .idle → s.inputs = es ++ rest → presentedWords es = some (is.map encode) →
    ∃ t, Host.Core.run core es.length s = .next t ∧ (t.phase = .idle ↔ legalOrder false is = true)

/-- R96, and (c) of R38: an edge with `rst = 0` and `cmd_valid = 0` changes no state element in any phase, whatever `cmd`
is; and idle edges may be removed anywhere without changing any later state. -/
def Obligations.IdleEdgesChangeNothing : Prop :=
  (∀ (s : State) (e : Edge) (rest : List Edge), s.inputs = e :: rest → e.rst = false → e.cmdValid = false →
    step s = .next { s with inputs := rest }) ∧
  ∀ (s t : State) (es rest : List Edge), s.inputs = es ++ rest → Host.Core.run core es.length s = .next t →
    Host.Core.run core (es.filter fun e => decide (e.event ≠ .idle)).length
      { s with inputs := (es.filter fun e => decide (e.event ≠ .idle)) ++ rest } = .next t

/-- R149: how a run from reset ends, by the words it presented. -/
def Obligations.RunsEndByWhatTheyPresented : Prop :=
  ∀ (es : List Edge) (ws : List CmdWord), presentedWords es = some ws →
    ∃ t, Host.Core.run core es.length { State.reset with inputs := es } = .next t ∧
      (runEnd t.toBlock = .nothingYet ↔ ws = []) ∧
      ((∃ r, runEnd t.toBlock = .complete r) ↔ ∃ is : List Instr, is ≠ [] ∧ ws = is.map encode ∧ legalOrder false is = true) ∧
      (runEnd t.toBlock = .faulted ↔ (outputs t.toBlock).fault = true) ∧
      (runEnd t.toBlock = .unfinished ↔ (outputs t.toBlock).busy = true)

/-! ### Invariants and what cannot be observed -/

/-- R29: the state after a reset step, from every state, and the state every run begins in, where the spec gives it, and
every output port there (the four unspecified elements get no value here). -/
def Obligations.ResetStateIsTheSpecs : Prop :=
  (State.reset.phase = .idle ∧ State.reset.resValid = false ∧ State.reset.fcode = 0#3) ∧
  ∀ s : State, ∃ t, stepEvent .reset s = .next t ∧ t.phase = .idle ∧ t.resValid = false ∧ t.fcode = 0#3 ∧
    outputs t.toBlock = outputs State.reset.toBlock ∧
    outputs t.toBlock =
      { busy := false, fault := false, fcode := 0#3, resValid := false, res := none, resWidth := none,
        resFormat := none }

/-- The invariant of the core holds after reset. -/
def Obligations.InvariantHoldsAtReset : Prop := State.reset.Inv

/-- R26 and the text after the table of R13: every step from every state with the invariant keeps it. -/
def Obligations.EveryStepKeepsTheInvariant : Prop :=
  ∀ s t : State, s.Inv → step s = .next t → t.Inv

/-- Two states that agree on what can reach a port are alike to a host, and stay alike under every step. -/
def Obligations.AlikeStatesStayAlike : Prop :=
  ∀ s t : State, s.Alike t →
    outputs s.toBlock = outputs t.toBlock ∧ ∃ s' t', step s = .next s' ∧ step t = .next t' ∧ s'.Alike t'

/-- R29: the four elements reset leaves unspecified cannot be observed, whatever the host presents and for however long:
so the values log entry 2 names for them carry no claim about a port. -/
def Obligations.UnspecifiedResetValuesAreUnobservable : Prop :=
  ∀ (es : List Edge) (k : Nat) (w : Width) (f : Format) (a : Acc) (r : Bus),
    ∃ t u, Host.Core.run core k { State.reset with inputs := es } = .next t ∧
      Host.Core.run core k { State.reset with inputs := es, cfgW := w, cfgF := f, acc := a, res := r } = .next u ∧
      outputs t.toBlock = outputs u.toBlock

/-! ### The transaction -/

/-- R14: what the accumulator holds after START and any bytes, with idle steps anywhere, that it reaches no port, and that
no event but FINISH lets it reach another element. -/
def Obligations.AccumulatorHoldsTheRunningCrc : Prop :=
  (∀ (s : State) (w : Width) (f : Format) (buf : List Byte) (es rest : List Edge),
    s.phase = .idle → s.inputs = es ++ rest →
    presentedWords es = some (((.start w f : Instr) :: buf.map .byte).map encode) →
    ∃ t, Host.Core.run core es.length s = .next t ∧ t.acc = (accr (params w) buf).setWidth 32 ∧
      (w = .w16 → t.acc.extractLsb' 16 16 = 0#16)) ∧
  (∀ (s : State) (a : Acc), outputs { s with acc := a }.toBlock = outputs s.toBlock) ∧
  (∀ (s : State) (a : Acc) (ev : Event), (∀ c, ev = .cmd c → decode c ≠ .instr .finish) →
    ∃ t a', stepEvent ev s = .next t ∧ stepEvent ev { s with acc := a } = .next { t with acc := a' })

/-- R100: the contract. From IDLE, a well-formed transaction with idle edges anywhere runs without a fault, is busy and
shows no result while it is open, and leaves the packed result of `compute` on the bus under its tag. -/
def Obligations.TransactionContract : Prop :=
  ∀ (s : State) (w : Width) (f : Format) (buf : List Byte) (es rest : List Edge),
    s.phase = .idle → s.inputs = es ++ rest → presentedWords es = some ((computeCommands w f buf).map encode) →
    (∃ t, Host.Core.run core es.length s = .next t ∧ t.inputs = rest ∧ t.phase = .idle ∧
      outputs t.toBlock =
        { busy := false, fault := false, fcode := s.fcode, resValid := true, res := some (pack (compute buf w f)),
          resWidth := some (if w = .w16 then 0#1 else 1#1), resFormat := some (if f = .integer then 0#1 else 1#1) } ∧
      readResult (outputs t.toBlock) = some (compute buf w f)) ∧
    ∀ (pre post : List Edge) (ws : List CmdWord), es = pre ++ post → presentedWords pre = some ws →
      ∃ u, Host.Core.run core pre.length s = .next u ∧ (outputs u.toBlock).fault = false ∧
        (0 < ws.length → ws.length < buf.length + 2 →
          (outputs u.toBlock).busy = true ∧ (outputs u.toBlock).resValid = false)

/-- R28, R114: the result of a transaction does not depend on the state before its START, nor on idle steps. -/
def Obligations.ResultIgnoresEarlierState : Prop :=
  ∀ (s s' : State) (w : Width) (f : Format) (buf : List Byte) (es es' rest rest' : List Edge),
    s.phase = .idle → s'.phase = .idle → s.inputs = es ++ rest → s'.inputs = es' ++ rest' →
    presentedWords es = some ((computeCommands w f buf).map encode) → presentedWords es' = presentedWords es →
    ∃ t t', Host.Core.run core es.length s = .next t ∧ Host.Core.run core es'.length s' = .next t' ∧
      t.res = t'.res ∧ t.cfgW = t'.cfgW ∧ t.cfgF = t'.cfgF ∧ t.resValid = true ∧ t'.resValid = true

/-- R39, R134: two instances under any schedule, each as if it ran alone. -/
def Obligations.InstancesAreIndependent : Prop :=
  ∀ (sched : List Bool) (p : State × State), ∃ q, runPair sched p = .next q ∧
    Host.Core.run core (sched.count true) p.1 = .next q.1 ∧ Host.Core.run core (sched.count false) p.2 = .next q.2

/-- R53 (and R148 on the count): a COMPUTE line with any `n` byte operands is read as that buffer, and presents `n + 2`
command words, START, the bytes in order, FINISH. -/
def Obligations.ComputeLinePresentsTheTransaction : Prop :=
  ∀ (w : Width) (f : Format) (buf : List Byte),
    (∀ ts : List Token, ts.map readByte = buf.map some →
      readOperands "compute".toList
        (.word (if w = .w16 then "w16".toList else "w32".toList) :: .comma ::
          .word (if f = .integer then "int".toList else "hex".toList) :: ts.flatMap fun t => [.comma, t]) =
        some (.compute w f buf)) ∧
    (Line.compute w f buf).edges.length = buf.length + 2 ∧
    presentedWords (Line.compute w f buf).edges =
      some (encode (.start w f) :: (buf.map fun d => BitVec.ofNat 10 (0x200 + d.toNat)) ++ [0x300#10])

/-- R52 to R54: the examples of the assembler notation. -/
def Obligations.AssemblerExamples : Prop :=
  assemble ["START w32, hex".toList] = some [Edge.ofCmd 0x103#10] ∧
  assemble ["BYTE 0x31".toList] = some [Edge.ofCmd 0x231#10] ∧
  assemble ["byte '1' ; a comment".toList] = some [Edge.ofCmd 0x231#10] ∧
  assemble ["FINISH".toList] = some [Edge.ofCmd 0x300#10] ∧
  assemble ["RESET".toList, "IDLE 2".toList, "WORD 0x1FF".toList] =
    some [Edge.ofReset, Edge.quiet, Edge.quiet, Edge.ofCmd 0x1FF#10] ∧
  assemble ["COMPUTE w16, int".toList] = some [Edge.ofCmd 0x100#10, Edge.ofCmd 0x300#10]

/-- R55: no width but `w16` and `w32` and no format but `int` and `hex` is accepted; with any other operand there, START,
COMPUTE and COMPUTE_TEXT are assembly errors. -/
def Obligations.AssemblerRefusesOtherSelections : Prop :=
  ∀ (ts : List Token),
    ((∃ line, readOperands "start".toList ts = some line) ∨ (∃ line, readOperands "compute".toList ts = some line) ∨
      (∃ line, readOperands "compute_text".toList ts = some line)) →
    ∃ (w f : List Char) (rest : List Token), ts = .word w :: .comma :: .word f :: rest ∧
      (w = ['w', '1', '6'] ∨ w = ['w', '3', '2']) ∧ (f = ['i', 'n', 't'] ∨ f = ['h', 'e', 'x'])

/-! ### The generators -/

/-- R58, R62: the bits of a reflected value, the two laws, the examples and the reflected polynomials. -/
def Obligations.ReflectionLaws : Prop :=
  (∀ (n : Nat) (v : BitVec n) (i : Nat), i < n → (reflect v).getLsbD i = v.getLsbD (n - 1 - i)) ∧
  (∀ (n : Nat) (v : BitVec n), reflect (reflect v) = v) ∧
  (∀ (n : Nat) (a b : BitVec n), reflect (a ^^^ b) = reflect a ^^^ reflect b) ∧
  reflect 0x31#8 = 0x8C#8 ∧ reflect 0x01#8 = 0x80#8 ∧ reflect 0x8005#16 = 0xA001#16 ∧
  reflect 0x04C11DB7#32 = 0xEDB88320#32 ∧ reflect 0x0000#16 = 0x0000#16 ∧ reflect 0xFFFFFFFF#32 = 0xFFFFFFFF#32 ∧
  rpoly params16 = 0xA001#16 ∧ rpoly params32 = 0xEDB88320#32

/-- R57: the normal-form register as a polynomial over the two-element field. One shift step multiplies by `x` modulo
`G = x^W + POLY`; taking in one message bit at the top adds it times `x^W`; and after the `8n` message bits (bit 0 of
each byte first) the register is the remainder of `INIT * x^(8n) + M * x^W`. -/
def Obligations.NormalFormIsPolynomialDivision : Prop :=
  ∀ w : Width,
    let val : BitVec w.bits → Polynomial (ZMod 2) := fun v =>
      ∑ i ∈ Finset.range w.bits, if v.getLsbD i then Polynomial.X ^ i else 0
    let G : Polynomial (ZMod 2) := Polynomial.X ^ w.bits + val (params w).poly
    (∀ r, val (normalShift (params w).poly r) = (val r * Polynomial.X) %ₘ G) ∧
    (∀ r (m : Bool), val (normalShift (params w).poly (r ^^^ (if m then BitVec.twoPow w.bits (w.bits - 1) else 0#w.bits))) =
      (val r * Polynomial.X + (if m then Polynomial.X ^ w.bits else 0)) %ₘ G) ∧
    ∀ buf : List Byte,
      val (normalRegister (params w) buf) =
        (val (params w).init * Polynomial.X ^ (8 * buf.length) +
          (∑ j ∈ Finset.range (8 * buf.length),
            if (buf.getD (j / 8) 0#8).getLsbD (j % 8) then Polynomial.X ^ (8 * buf.length - 1 - j) else 0) *
            Polynomial.X ^ w.bits) %ₘ G

/-- R64: the reflected form the hardware runs computes the normative definition. -/
def Obligations.NormalAndReflectedFormsAgree : Prop :=
  ∀ (w : Width) (buf : List Byte), crc w buf = fin (params w) (accr (params w) buf)

/-- R65: the table form and the bit-by-bit form are the same function. -/
def Obligations.TableFormAgrees : Prop :=
  (∀ (w : Width) (a : BitVec w.bits) (d : Byte),
    upd (params w) a d = (a >>> 8) ^^^ tableEntry (params w) ((a ^^^ d.setWidth w.bits).setWidth 8) ∧
    upd (params w) a d = updByTable (params w) a d) ∧
  tableEntry params16 0xF3#8 = 0x4540#16 ∧ upd params16 0xD4C1#16 0x32#8 = 0x4594#16

/-- R115, R116: the printed tables are what the formula gives. -/
def Obligations.PrintedTablesAreTheFormula : Prop :=
  printedT16.length = 256 ∧ printedT32.length = 256 ∧
  ∀ k : Byte, printedT16.getD k.toNat 0#16 = upd params16 0#16 k ∧ printedT32.getD k.toNat 0#32 = upd params32 0#32 k

/-- R117: the properties of the tables, and their eight basis entries. -/
def Obligations.TableLaws : Prop :=
  (∀ w : Width,
    tableEntry (params w) 0#8 = 0#w.bits ∧
    (∀ j k : Byte, tableEntry (params w) (j ^^^ k) = tableEntry (params w) j ^^^ tableEntry (params w) k) ∧
    tableEntry (params w) 0x80#8 = rpoly (params w) ∧
    (∀ j k : Byte, tableEntry (params w) j = tableEntry (params w) k → j = k)) ∧
  ([0x01, 0x02, 0x04, 0x08, 0x10, 0x20, 0x40, 0x80].map (tableEntry params16) =
    [0xC0C1, 0xC181, 0xC301, 0xC601, 0xCC01, 0xD801, 0xF001, 0xA001]) ∧
  ([0x01, 0x02, 0x04, 0x08, 0x10, 0x20, 0x40, 0x80].map (tableEntry params32) =
    [0x77073096, 0xEE0E612C, 0x076DC419, 0x0EDB8832, 0x1DB71064, 0x3B6E20C8, 0x76DC4190, 0xEDB88320])

/-- R67, R109, R110: the empty buffer, and the check values with the corrected 32-bit literal of 90_conflicts.md C1. -/
def Obligations.DocumentedChecksums : Prop :=
  (crc16 [] = 0x0000#16 ∧ crc32 [] = 0x00000000#32 ∧ accr params32 [] = 0xFFFFFFFF#32) ∧
  (compute [] .w16 .integer = .int16 0#16 ∧ compute [] .w32 .integer = .int32 0#32 ∧
    compute [] .w16 .hexString = .hex4 [0x30#8, 0x30#8, 0x30#8, 0x30#8] ∧
    compute [] .w32 .hexString = .hex8 [0x30#8, 0x30#8, 0x30#8, 0x30#8, 0x30#8, 0x30#8, 0x30#8, 0x30#8]) ∧
  (let nine : List Byte := [0x31, 0x32, 0x33, 0x34, 0x35, 0x36, 0x37, 0x38, 0x39]
   compute nine .w32 .integer = .int32 0xCBF43926#32 ∧ compute nine .w16 .integer = .int16 0xBB3D#16 ∧
    compute nine .w32 .hexString = .hex8 [0x63#8, 0x62#8, 0x66#8, 0x34#8, 0x33#8, 0x39#8, 0x32#8, 0x36#8] ∧
    compute nine .w16 .hexString = .hex4 [0x62#8, 0x62#8, 0x33#8, 0x64#8])

/-- R69, R73: leading zero bytes do not change the 16-bit checksum and do change the 32-bit one. -/
def Obligations.LeadingZeroBytes : Prop :=
  (∀ buf : List Byte, crc16 (0x00#8 :: buf) = crc16 buf) ∧ (∀ n : Nat, crc16 (List.replicate n 0x00#8) = 0#16) ∧
  crc32 [0x00#8] = 0xD202EF8D#32 ∧ crc32 [] = 0#32 ∧
  crc32 [0x00#8, 0x61#8, 0x62#8, 0x63#8] = 0xEB2147CC#32 ∧ crc32 [0x61#8, 0x62#8, 0x63#8] = 0x352441C2#32 ∧
  crc16 [0x00#8, 0x31#8] = 0xD4C1#16 ∧ crc16 [0x31#8] = 0xD4C1#16

/-- R70: the affine law for both widths and the linear law for width 16. -/
def Obligations.ChecksumsAreAffine : Prop :=
  (∀ (w : Width) (a b c : List Byte), a.length = b.length → b.length = c.length →
    crc w (List.zipWith (· ^^^ ·) a (List.zipWith (· ^^^ ·) b c)) = crc w a ^^^ crc w b ^^^ crc w c) ∧
  (∀ a b : List Byte, a.length = b.length → crc16 (List.zipWith (· ^^^ ·) a b) = crc16 a ^^^ crc16 b)

/-- R71: a buffer followed by its own checksum, least significant byte first, has a constant checksum. -/
def Obligations.ResidueIsConstant : Prop :=
  (∀ buf : List Byte,
    crc16 (buf ++ (List.range 2).map fun i => (crc16 buf).extractLsb' (8 * i) 8) = 0x0000#16 ∧
    crc32 (buf ++ (List.range 4).map fun i => (crc32 buf).extractLsb' (8 * i) 8) = 0x2144DF1C#32) ∧
  crc32 [0x31, 0x32, 0x33, 0x34, 0x35, 0x36, 0x37, 0x38, 0x39, 0x26, 0x39, 0xF4, 0xCB] = 0x2144DF1C#32 ∧
  crc16 [0x31, 0x32, 0x33, 0x34, 0x35, 0x36, 0x37, 0x38, 0x39, 0x3D, 0xBB] = 0x0000#16 ∧
  crc32 [0x00, 0x00, 0x00, 0x00] = 0x2144DF1C#32

/-- R72: one-byte buffers, their value by the table, that no two share a checksum, and the selected values. -/
def Obligations.SingleByteChecksums : Prop :=
  (∀ k : Byte,
    crc16 [k] = tableEntry params16 k ∧ crc32 [k] = tableEntry params32 (k ^^^ 0xFF#8) ^^^ 0xFF000000#32 ∧
    ∀ j : Byte, (crc16 [j] = crc16 [k] → j = k) ∧ (crc32 [j] = crc32 [k] → j = k)) ∧
  ([0x00#8, 0x01#8, 0x80#8, 0xFF#8, 0x61#8].map fun k => crc16 [k]) = [0x0000, 0xC0C1, 0xA001, 0x4040, 0xE8C1] ∧
  ([0x00#8, 0x01#8, 0x80#8, 0xFF#8, 0x61#8].map fun k => crc32 [k]) =
    [0xD202EF8D, 0xA505DF1B, 0x3FBA6CAD, 0xFF000000, 0xE8B7BE43]

/-- R113: buffers of equal length that differ in exactly one byte have different checksums, for each width. -/
def Obligations.OneByteDifferenceIsDetected : Prop :=
  ∀ (w : Width) (pre post : List Byte) (d d' : Byte), d ≠ d' →
    crc w (pre ++ d :: post) ≠ crc w (pre ++ d' :: post)

/-! ### The formatter -/

/-- R78, R79, R80, R111: which nibble each character shows, the sixteen digits, the length, and the checksums with leading
zero nibbles. -/
def Obligations.HexStringShowsEveryNibble : Prop :=
  (∀ (w : Width) (v : BitVec w.bits),
    (hexString v).length = w.bits / 4 ∧
    ∀ j, j < w.bits / 4 → (hexString v)[j]? = some (hexDigit (v.extractLsb' (w.bits - 4 - 4 * j) 4))) ∧
  (∀ nib : BitVec 4,
    (nib.toNat ≤ 9 → (hexDigit nib).toNat = 0x30 + nib.toNat) ∧
    (10 ≤ nib.toNat → (hexDigit nib).toNat = 0x57 + nib.toNat) ∧
    ¬ (0x41 ≤ (hexDigit nib).toNat ∧ (hexDigit nib).toNat ≤ 0x46) ∧ (hexDigit nib).toNat ≤ 0x66) ∧
  (∀ (w : Width) (buf : List Byte), (hexString (crc w buf)).length = w.bits / 4) ∧
  crc32 [0xCC, 0x47, 0xE1, 0x3C] = 0x0000ABCD#32 ∧ crc16 [0x18, 0x00] = 0x000A#16 ∧
  hexString 0x0000ABCD#32 = [0x30, 0x30, 0x30, 0x30, 0x61, 0x62, 0x63, 0x64] ∧
  hexString 0xCBF43926#32 = [0x63, 0x62, 0x66, 0x34, 0x33, 0x39, 0x32, 0x36] ∧
  hexString 0xBB3D#16 = [0x62, 0x62, 0x33, 0x64] ∧ hexString 0x000A#16 = [0x30, 0x30, 0x30, 0x61] ∧
  hexString 0x00000000#32 = [0x30, 0x30, 0x30, 0x30, 0x30, 0x30, 0x30, 0x30]

/-- R81, R112: the string read back is the number, so that the string determines it, and the two results of `compute` on
one buffer agree. -/
def Obligations.IntegerAndHexStringAgree : Prop :=
  (∀ (w : Width) (v : BitVec w.bits),
    unhex (hexString v) = v.toNat ∧ ∀ v' : BitVec w.bits, hexString v = hexString v' → v = v') ∧
  (∀ (buf : List Byte) (n : BitVec 16), compute buf .w16 .integer = .int16 n →
    ∃ s, compute buf .w16 .hexString = .hex4 s ∧ s = hexString n ∧ unhex s = n.toNat) ∧
  (∀ (buf : List Byte) (n : BitVec 32), compute buf .w32 .integer = .int32 n →
    ∃ s, compute buf .w32 .hexString = .hex8 s ∧ s = hexString n ∧ unhex s = n.toNat)

/-- R82, R83: an integer on the bus, bit for bit and zero above, and a string on the bus, character `k` on lane `k` and
every further lane zero. -/
def Obligations.ResultsOnTheBus : Prop :=
  (∀ (v : BitVec 16) (i : Nat), (pack (.int16 v)).getLsbD i = v.getLsbD i) ∧
  (∀ (v : BitVec 32) (i : Nat), (pack (.int32 v)).getLsbD i = v.getLsbD i) ∧
  (∀ (v : BitVec 16) (i : Nat), 16 ≤ i → (pack (.int16 v)).getLsbD i = false) ∧
  (∀ (v : BitVec 32) (i : Nat), 32 ≤ i → (pack (.int32 v)).getLsbD i = false) ∧
  pack (.int16 0xBB3D#16) = 0x000000000000BB3D#64 ∧ pack (.int32 0xCBF43926#32) = 0x00000000CBF43926#64 ∧
  (∀ (s : List Byte) (k : Nat), s.length = 4 → (pack (.hex4 s)).extractLsb' (8 * k) 8 = s.getD k 0#8) ∧
  (∀ (s : List Byte) (k : Nat), s.length = 8 → (pack (.hex8 s)).extractLsb' (8 * k) 8 = s.getD k 0#8) ∧
  pack (.hex8 (hexString 0xCBF43926#32)) = 0x3632393334666263#64 ∧
  pack (.hex4 (hexString 0xBB3D#16)) = 0x0000000064336262#64 ∧
  pack (.hex8 (hexString 0x00000000#32)) = 0x3030303030303030#64 ∧
  pack (.hex4 (hexString 0x0000#16)) = 0x0000000030303030#64 ∧
  pack (.hex8 (hexString 0x0000ABCD#32)) = 0x6463626130303030#64

/-- R84 and the paragraph after it: unpacking by the tag gives the packed result back. -/
def Obligations.UnpackOfPackIsTheResult : Prop :=
  ∀ (f : Format) (w : Width) (v : BitVec w.bits),
    unpack (pack (render f w v)) (if w = .w16 then 0#1 else 1#1) (if f = .integer then 0#1 else 1#1) = render f w v

/-! ### The machine and the block -/

/-- R13, R27, and (a) of R38: the machine over any stretch of edges is the block of seven elements stepped by the events of
those edges, one after the other; what `exec` does to a command's word is what the block's step does. -/
def Obligations.MachineIsTheBlockOfSevenElements : Prop :=
  (∀ (s : State) (ev : Event), stepEvent ev s = .next { toBlock := blockStep ev s.toBlock, inputs := s.inputs }) ∧
  (∀ (b : Block), blockStep .idle b = b) ∧
  (∀ (s : State) (c : CmdWord) (i : Instr), decode c = .instr i →
    exec i s = .next { toBlock := blockStep (.cmd c) s.toBlock, inputs := s.inputs }) ∧
  (∀ (s : State) (es rest : List Edge), s.inputs = es ++ rest →
    Host.Core.run core es.length s =
      .next { toBlock := (es.map Edge.event).foldl (fun b ev => blockStep ev b) s.toBlock, inputs := rest })
end

