-- ==== Sys2Proof/Laws/Crc.lean ====
section
/-! SUPPORT. What each function of the generators does, said once. -/

namespace Sys2Proof.Machine

open Sys2Proof

/-- The bits of a reflected value (40_crc_generators.md R58). -/
theorem reflect_getLsbD {n : Nat} (v : BitVec n) (i : Nat) :
    (reflect v).getLsbD i = (decide (i < n) && v.getLsbD (n - 1 - i)) := by
  simp [reflect, BitVec.getLsbD_reverse, BitVec.getMsbD_eq_getLsbD]

/-- The bits of a reflected value, by a bounded index. -/
@[simp] theorem reflect_getElem {n : Nat} (v : BitVec n) (i : Nat) (h : i < n) :
    (reflect v)[i] = v.getLsbD (n - 1 - i) := by
  rw [← BitVec.getLsbD_eq_getElem, reflect_getLsbD]
  simp [h]

@[simp] theorem reflect_zero {n : Nat} : reflect (0#n) = 0#n := by
  apply BitVec.eq_of_getLsbD_eq
  intro i hi
  simp [reflect_getLsbD]

/-- A shift step leaves zero at zero. -/
@[simp] theorem reflectedShift_zero {n : Nat} (rp : BitVec n) : reflectedShift rp 0#n = 0#n := by simp [reflectedShift]

@[simp] theorem normalRegister_nil {n : Nat} (p : CrcParams n) : normalRegister p [] = p.init := rfl

theorem normalRegister_snoc {n : Nat} (p : CrcParams n) (buf : List Byte) (d : Byte) :
    normalRegister p (buf ++ [d]) = normalByte p (normalRegister p buf) d := by
  simp [normalRegister]

@[simp] theorem accr_nil {n : Nat} (p : CrcParams n) : accr p [] = startValue p := rfl

theorem accr_snoc {n : Nat} (p : CrcParams n) (buf : List Byte) (d : Byte) :
    accr p (buf ++ [d]) = upd p (accr p buf) d := by
  simp [accr]

/-- One shift-right step as one equation, without a case split. -/
theorem reflectedShift_eq {n : Nat} (rp a : BitVec n) :
    reflectedShift rp a = (a >>> 1) ^^^ (if a.getLsbD 0 then rp else 0#n) := by
  unfold reflectedShift
  split <;> simp

/-- One shift-left step as one equation, without a case split. -/
theorem normalShift_eq {n : Nat} (poly reg : BitVec n) :
    normalShift poly reg = (reg <<< 1) ^^^ (if reg.msb then poly else 0#n) := by
  unfold normalShift
  split <;> simp

/-- The shift-right step distributes over XOR: the generators have no carry (40_crc_generators.md R56). -/
theorem reflectedShift_xor {n : Nat} (rp a b : BitVec n) :
    reflectedShift rp (a ^^^ b) = reflectedShift rp a ^^^ reflectedShift rp b := by
  apply BitVec.eq_of_getLsbD_eq
  intro i hi
  cases ha : a.getLsbD 0 <;> cases hb : b.getLsbD 0 <;> cases hr : rp.getLsbD i <;>
    simp [reflectedShift_eq, BitVec.getLsbD_xor, ha, hb, hr]

/-- Any number of shift-right steps distributes over XOR. -/
theorem reflectedShift_iterate_xor {n : Nat} (rp : BitVec n) (k : Nat) (a b : BitVec n) :
    (reflectedShift rp)^[k] (a ^^^ b) = (reflectedShift rp)^[k] a ^^^ (reflectedShift rp)^[k] b := by
  induction k generalizing a b with
  | zero => rfl
  | succ k ih => simp only [Function.iterate_succ_apply, reflectedShift_xor, ih]

/-- The byte step distributes over XOR in the pair of register and byte (40_crc_generators.md R70, derivation). -/
theorem upd_xor {n : Nat} (p : CrcParams n) (a b : BitVec n) (d e : Byte) :
    upd p (a ^^^ b) (d ^^^ e) = upd p a d ^^^ upd p b e := by
  rw [upd, upd, upd, ← reflectedShift_iterate_xor, BitVec.setWidth_xor]
  congr 1
  ac_rfl

end Sys2Proof.Machine
end

