-- ==== Sys2Proof/Laws/Formatter.lean ====
section
/-! SUPPORT. What each function of the formatter does, said once. -/

namespace Sys2Proof.Machine

open Sys2Proof

@[simp] theorem packLanes_nil : packLanes [] = 0#64 := rfl

theorem packLanes_cons (c : Byte) (cs : List Byte) :
    packLanes (c :: cs) = (packLanes cs <<< 8) ||| c.setWidth 64 := rfl

/-- The four characters of a 16-bit checksum, most significant first (41_formatter.md R78). -/
theorem hexString_16 (v : BitVec 16) :
    hexString v = [hexDigit (v.extractLsb' 12 4), hexDigit (v.extractLsb' 8 4), hexDigit (v.extractLsb' 4 4),
      hexDigit (v.extractLsb' 0 4)] := rfl

/-- The eight characters of a 32-bit checksum, most significant first (41_formatter.md R78). -/
theorem hexString_32 (v : BitVec 32) :
    hexString v = [hexDigit (v.extractLsb' 28 4), hexDigit (v.extractLsb' 24 4), hexDigit (v.extractLsb' 20 4),
      hexDigit (v.extractLsb' 16 4), hexDigit (v.extractLsb' 12 4), hexDigit (v.extractLsb' 8 4),
      hexDigit (v.extractLsb' 4 4), hexDigit (v.extractLsb' 0 4)] := rfl

@[simp] theorem widthOfBit_widthBit (w : Width) : widthOfBit (widthBit w) = w := by cases w <;> rfl

@[simp] theorem formatOfBit_formatBit (f : Format) : formatOfBit (formatBit f) = f := by cases f <;> rfl

end Sys2Proof.Machine
end

