-- ==== Sys2Proof/Laws/State.lean ====
section
/-! SUPPORT. One lemma per field per update of the block and of the whole state, so that no later proof unfolds a record
update. -/

namespace Sys2Proof.Machine

open Sys2Proof

/-! ### The whole state: the block and the edges still to come -/

@[simp] theorem consumeEdge_toBlock (s : State) : (consumeEdge s).toBlock = s.toBlock := rfl
@[simp] theorem consumeEdge_inputs (s : State) : (consumeEdge s).inputs = s.inputs.tail := rfl
@[simp] theorem presentWord_toBlock (c : CmdWord) (s : State) : (presentWord c s).toBlock = s.toBlock := rfl
@[simp] theorem presentWord_inputs (c : CmdWord) (s : State) : (presentWord c s).inputs = Edge.ofCmd c :: s.inputs := rfl
@[simp] theorem onBlock_toBlock (s : State) (g : Block → Block) : (s.onBlock g).toBlock = g s.toBlock := rfl
@[simp] theorem onBlock_inputs (s : State) (g : Block → Block) : (s.onBlock g).inputs = s.inputs := rfl
@[simp] theorem reset_toBlock : State.reset.toBlock = Block.reset := rfl
@[simp] theorem reset_inputs : State.reset.inputs = [] := rfl

/-! ### raiseFault -/

@[simp] theorem raiseFault_phase (c : FaultCode) (b : Block) : (raiseFault c b).phase = .fault := rfl
@[simp] theorem raiseFault_cfgW (c : FaultCode) (b : Block) : (raiseFault c b).cfgW = b.cfgW := rfl
@[simp] theorem raiseFault_cfgF (c : FaultCode) (b : Block) : (raiseFault c b).cfgF = b.cfgF := rfl
@[simp] theorem raiseFault_acc (c : FaultCode) (b : Block) : (raiseFault c b).acc = b.acc := rfl
@[simp] theorem raiseFault_resValid (c : FaultCode) (b : Block) : (raiseFault c b).resValid = false := rfl
@[simp] theorem raiseFault_res (c : FaultCode) (b : Block) : (raiseFault c b).res = b.res := rfl
@[simp] theorem raiseFault_fcode (c : FaultCode) (b : Block) : (raiseFault c b).fcode = faultBits c := rfl

/-! ### openTransaction -/

@[simp] theorem openTransaction_phase (w : Width) (f : Format) (b : Block) : (openTransaction w f b).phase = .active := rfl
@[simp] theorem openTransaction_cfgW (w : Width) (f : Format) (b : Block) : (openTransaction w f b).cfgW = w := rfl
@[simp] theorem openTransaction_cfgF (w : Width) (f : Format) (b : Block) : (openTransaction w f b).cfgF = f := rfl
@[simp] theorem openTransaction_acc (w : Width) (f : Format) (b : Block) : (openTransaction w f b).acc = loadedAcc w := rfl
@[simp] theorem openTransaction_resValid (w : Width) (f : Format) (b : Block) : (openTransaction w f b).resValid = false := rfl
@[simp] theorem openTransaction_res (w : Width) (f : Format) (b : Block) : (openTransaction w f b).res = b.res := rfl
@[simp] theorem openTransaction_fcode (w : Width) (f : Format) (b : Block) : (openTransaction w f b).fcode = b.fcode := rfl

/-! ### absorbByte -/

@[simp] theorem absorbByte_phase (d : Byte) (b : Block) : (absorbByte d b).phase = b.phase := rfl
@[simp] theorem absorbByte_cfgW (d : Byte) (b : Block) : (absorbByte d b).cfgW = b.cfgW := rfl
@[simp] theorem absorbByte_cfgF (d : Byte) (b : Block) : (absorbByte d b).cfgF = b.cfgF := rfl
@[simp] theorem absorbByte_acc (d : Byte) (b : Block) : (absorbByte d b).acc = absorbedAcc b.cfgW b.acc d := rfl
@[simp] theorem absorbByte_resValid (d : Byte) (b : Block) : (absorbByte d b).resValid = b.resValid := rfl
@[simp] theorem absorbByte_res (d : Byte) (b : Block) : (absorbByte d b).res = b.res := rfl
@[simp] theorem absorbByte_fcode (d : Byte) (b : Block) : (absorbByte d b).fcode = b.fcode := rfl

/-! ### closeTransaction -/

@[simp] theorem closeTransaction_phase (b : Block) : (closeTransaction b).phase = .idle := rfl
@[simp] theorem closeTransaction_cfgW (b : Block) : (closeTransaction b).cfgW = b.cfgW := rfl
@[simp] theorem closeTransaction_cfgF (b : Block) : (closeTransaction b).cfgF = b.cfgF := rfl
@[simp] theorem closeTransaction_acc (b : Block) : (closeTransaction b).acc = b.acc := rfl
@[simp] theorem closeTransaction_resValid (b : Block) : (closeTransaction b).resValid = true := rfl
@[simp] theorem closeTransaction_res (b : Block) : (closeTransaction b).res = finishedRes b.cfgW b.cfgF b.acc := rfl
@[simp] theorem closeTransaction_fcode (b : Block) : (closeTransaction b).fcode = b.fcode := rfl

/-! ### Reset and idle steps -/

@[simp] theorem resetStep_eq (b : Block) : resetStep b = Block.reset := rfl
@[simp] theorem idleStep_eq (b : Block) : idleStep b = b := rfl
@[simp] theorem reset_phase : Block.reset.phase = .idle := rfl
@[simp] theorem reset_cfgW : Block.reset.cfgW = .w16 := rfl
@[simp] theorem reset_cfgF : Block.reset.cfgF = .integer := rfl
@[simp] theorem reset_acc : Block.reset.acc = 0#32 := rfl
@[simp] theorem reset_resValid : Block.reset.resValid = false := rfl
@[simp] theorem reset_res : Block.reset.res = 0#64 := rfl
@[simp] theorem reset_fcode : Block.reset.fcode = 0#3 := rfl

end Sys2Proof.Machine
end

