-- ==== Sys2Proof/Laws/Ops.lean ====
section
/-! SUPPORT. What each shared operation of the step can do, said once. -/

namespace Sys2Proof.Machine

open Sys2Proof

/-! ### The input ports -/

@[simp] theorem event_of_rst {e : Edge} (h : e.rst = true) : e.event = .reset := by simp [Edge.event, h]

@[simp] theorem event_of_cmd {e : Edge} (hr : e.rst = false) (hv : e.cmdValid = true) : e.event = .cmd e.cmd := by
  simp [Edge.event, hr, hv]

@[simp] theorem event_of_quiet {e : Edge} (hr : e.rst = false) (hv : e.cmdValid = false) : e.event = .idle := by
  simp [Edge.event, hr, hv]

@[simp] theorem event_ofCmd (c : CmdWord) : (Edge.ofCmd c).event = .cmd c := rfl

@[simp] theorem event_quiet : Edge.quiet.event = .idle := rfl

@[simp] theorem event_ofReset : Edge.ofReset.event = .reset := rfl

theorem nextEvent_nil {s : State} (h : s.inputs = []) : nextEvent s = .idle := by simp [nextEvent, h]

theorem nextEvent_cons {s : State} {e : Edge} {es : List Edge} (h : s.inputs = e :: es) :
    nextEvent s = e.event := by simp [nextEvent, h]

@[simp] theorem consumeEdge_presentWord (c : CmdWord) (s : State) : consumeEdge (presentWord c s) = s := rfl

theorem consumeEdge_nil {s : State} (h : s.inputs = []) : consumeEdge s = s := by
  cases s
  simp_all [consumeEdge]

theorem consumeEdge_cons {s : State} {e : Edge} {es : List Edge} (h : s.inputs = e :: es) :
    consumeEdge s = { s with inputs := es } := by simp [consumeEdge, h]

/-! ### The phase check -/

theorem byPhase_idle {b : Block} (h : b.phase = .idle) (f g : Block → Block) : byPhase f g b = f b := by
  simp [byPhase, h]

theorem byPhase_active {b : Block} (h : b.phase = .active) (f g : Block → Block) : byPhase f g b = g b := by
  simp [byPhase, h]

theorem byPhase_fault {b : Block} (h : b.phase = .fault) (f g : Block → Block) : byPhase f g b = b := by
  simp [byPhase, h]

/-- The phase check does one of three things. -/
theorem byPhase_cases (f g : Block → Block) (b : Block) :
    (b.phase = .idle ∧ byPhase f g b = f b) ∨ (b.phase = .active ∧ byPhase f g b = g b) ∨
      (b.phase = .fault ∧ byPhase f g b = b) := by
  cases h : b.phase <;> simp [byPhase, h]

/-! ### The commands -/

/-- What a command does in IDLE. -/
def onIdle : Instr → Block → Block
  | .start w f => openTransaction w f
  | .byte _ => raiseFault .byteOutside
  | .finish => raiseFault .finishOutside

/-- What a command does in ACTIVE. -/
def onActive : Instr → Block → Block
  | .start _ _ => raiseFault .startInside
  | .byte d => absorbByte d
  | .finish => closeTransaction

/-- Every command is the phase check over its two effects. -/
theorem exec_eq (i : Instr) (s : State) : exec i s = .next (s.onBlock (byPhase (onIdle i) (onActive i))) := by
  cases i <;> rfl

/-- A word that decodes to a command steps the block as that command. -/
theorem blockStep_instr {c : CmdWord} {i : Instr} (h : decode c = .instr i) (b : Block) :
    blockStep (.cmd c) b = byPhase (onIdle i) (onActive i) b := by
  simp only [blockStep, h]
  cases i <;> rfl

/-- A reserved word steps the block by its fault. -/
theorem blockStep_reserved {c : CmdWord} {code : FaultCode} (h : decode c = .reserved code) (b : Block) :
    blockStep (.cmd c) b = reservedWord code b := by
  simp only [blockStep, h]

/-! ### The step -/

@[simp] theorem blockStep_reset (b : Block) : blockStep .reset b = Block.reset := rfl

@[simp] theorem blockStep_idle (b : Block) : blockStep .idle b = b := rfl

/-- The fault a decoded word raises in a phase, if any (60_exceptions.md R124). -/
def faultOf : Decoded → Phase → Option FaultCode
  | _, .fault => none
  | .reserved code, .idle => some code
  | .reserved code, .active => some code
  | .instr (.start _ _), .idle => none
  | .instr (.start _ _), .active => some .startInside
  | .instr (.byte _), .idle => some .byteOutside
  | .instr (.byte _), .active => none
  | .instr .finish, .idle => some .finishOutside
  | .instr .finish, .active => none

/-- Everything a step of the block can do: reset, nothing, one of the three effects, or taking a fault. -/
theorem blockStep_cases (ev : Event) (b : Block) :
    (ev = .reset ∧ blockStep ev b = Block.reset) ∨
    (ev ≠ .reset ∧ (ev = .idle ∨ b.phase = .fault) ∧ blockStep ev b = b) ∨
    (∃ c w f, ev = .cmd c ∧ decode c = .instr (.start w f) ∧ b.phase = .idle ∧
      blockStep ev b = openTransaction w f b) ∨
    (∃ c d, ev = .cmd c ∧ decode c = .instr (.byte d) ∧ b.phase = .active ∧ blockStep ev b = absorbByte d b) ∨
    (∃ c, ev = .cmd c ∧ decode c = .instr .finish ∧ b.phase = .active ∧ blockStep ev b = closeTransaction b) ∨
    (∃ c code, ev = .cmd c ∧ b.phase ≠ .fault ∧ faultOf (decode c) b.phase = some code ∧
      blockStep ev b = raiseFault code b) := by
  cases ev with
  | reset => exact .inl ⟨rfl, rfl⟩
  | idle => exact .inr (.inl ⟨by simp, .inl rfl, rfl⟩)
  | cmd c =>
    right
    cases hd : decode c with
    | reserved code =>
      rw [blockStep_reserved hd, reservedWord]
      rcases byPhase_cases (raiseFault code) (raiseFault code) b with ⟨hp, h⟩ | ⟨hp, h⟩ | ⟨hp, h⟩
      · exact .inr (.inr (.inr (.inr ⟨c, code, rfl, by simp [hp], by simp [hd, hp, faultOf], h⟩)))
      · exact .inr (.inr (.inr (.inr ⟨c, code, rfl, by simp [hp], by simp [hd, hp, faultOf], h⟩)))
      · exact .inl ⟨by simp, .inr hp, h⟩
    | instr i =>
      rw [blockStep_instr hd]
      rcases byPhase_cases (onIdle i) (onActive i) b with ⟨hp, h⟩ | ⟨hp, h⟩ | ⟨hp, h⟩
      · cases i with
        | start w f => exact .inr (.inl ⟨c, w, f, rfl, hd, hp, h⟩)
        | byte d => exact .inr (.inr (.inr (.inr ⟨c, _, rfl, by simp [hp], by simp [hd, hp, faultOf], h⟩)))
        | finish => exact .inr (.inr (.inr (.inr ⟨c, _, rfl, by simp [hp], by simp [hd, hp, faultOf], h⟩)))
      · cases i with
        | start w f => exact .inr (.inr (.inr (.inr ⟨c, _, rfl, by simp [hp], by simp [hd, hp, faultOf], h⟩)))
        | byte d => exact .inr (.inr (.inl ⟨c, d, rfl, hd, hp, h⟩))
        | finish => exact .inr (.inr (.inr (.inl ⟨c, rfl, hd, hp, h⟩)))
      · exact .inl ⟨by simp, .inr hp, h⟩

/-- A step on an event is the block's step, and the edges still to come are left. -/
theorem stepEvent_eq (ev : Event) (s : State) : stepEvent ev s = .next (s.onBlock (blockStep ev)) := by
  cases ev with
  | reset => rfl
  | idle => rfl
  | cmd c =>
    simp only [stepEvent]
    cases hd : decode c with
    | instr i => simp only [exec_eq, State.onBlock, blockStep_instr hd]
    | reserved code => simp only [State.onBlock, blockStep_reserved hd]

theorem step_eq (s : State) : step s = .next ((consumeEdge s).onBlock (blockStep (nextEvent s))) := stepEvent_eq _ _

theorem step_cons {s : State} {e : Edge} {es : List Edge} (h : s.inputs = e :: es) :
    step s = .next { toBlock := blockStep e.event s.toBlock, inputs := es } := by
  rw [step_eq, nextEvent_cons h, consumeEdge_cons h]
  rfl

/-- Running one edge and then `k` more. -/
theorem run_succ (k : Nat) (s : State) :
    Host.Core.run core (k + 1) s = Host.Core.run core k ((consumeEdge s).onBlock (blockStep (nextEvent s))) := by
  simp only [Host.Core.run, show core.step s = step s from rfl, step_eq]

@[simp] theorem run_zero (s : State) : Host.Core.run core 0 s = .next s := rfl

end Sys2Proof.Machine
end

