-- ==== Sys2Proof/Laws/PerInstr.lean ====
section
/-! SUPPORT. Statements made per instruction, about the instruction as syntax. -/

namespace Sys2Proof.Laws.RowMatch

open Sys2Proof

/-- A command's word matches the opcode table's row of that command and no other row (30_encoding.md, the table after
R51 and the paragraph under it). -/
def Statement : Instr → Prop
  | .start w f => matchesStart (encode (.start w f)) = true ∧ matchesByte (encode (.start w f)) = false ∧
      matchesFinish (encode (.start w f)) = false
  | .byte d => matchesStart (encode (.byte d)) = false ∧ matchesByte (encode (.byte d)) = true ∧
      matchesFinish (encode (.byte d)) = false
  | .finish => matchesStart (encode .finish) = false ∧ matchesByte (encode .finish) = false ∧
      matchesFinish (encode .finish) = true

theorem start (w : Width) (f : Format) : Statement (.start w f) := by
  unfold Statement
  cases w <;> cases f <;> decide

theorem byte (d : Byte) : Statement (.byte d) := by
  have key : ∀ d : Byte, matchesStart (encode (.byte d)) = false ∧ matchesByte (encode (.byte d)) = true ∧
      matchesFinish (encode (.byte d)) = false := by decide
  exact key d

theorem finish : Statement .finish := by
  unfold Statement
  decide

end Sys2Proof.Laws.RowMatch
end

