-- ==== Sys2Proof/Laws/Runs.lean ====
section
/-! SUPPORT. Running a stretch of edges: the induction over a run, packaged once. -/

namespace Sys2Proof.Machine

open Sys2Proof

/-- The block after a stretch of edges. -/
def afterEdges (es : List Edge) (b : Block) : Block := es.foldl (fun c e => blockStep e.event c) b

@[simp] theorem afterEdges_nil (b : Block) : afterEdges [] b = b := rfl

@[simp] theorem afterEdges_cons (e : Edge) (es : List Edge) (b : Block) :
    afterEdges (e :: es) b = afterEdges es (blockStep e.event b) := rfl

theorem afterEdges_append (es fs : List Edge) (b : Block) :
    afterEdges (es ++ fs) b = afterEdges fs (afterEdges es b) := by simp [afterEdges, List.foldl_append]

/-- Running exactly the stretch of edges that stands first in the input stream. -/
theorem run_edges (es rest : List Edge) (s : State) (h : s.inputs = es ++ rest) :
    Host.Core.run core es.length s = .next { toBlock := afterEdges es s.toBlock, inputs := rest } := by
  induction es generalizing s with
  | nil => cases s; simp_all
  | cons e es ih =>
    rw [List.length_cons, run_succ, nextEvent_cons h, consumeEdge_cons h, ih _ (by simp)]
    simp

@[simp] theorem presentedWords_nil : presentedWords [] = some [] := rfl

/-- What the first edge of a stretch without reset adds to the words it presents. -/
theorem presentedWords_cons {e : Edge} {es : List Edge} {ws : List CmdWord} (h : presentedWords (e :: es) = some ws) :
    (e.event = .idle ∧ presentedWords es = some ws) ∨
      ∃ c cs, e.event = .cmd c ∧ presentedWords es = some cs ∧ ws = c :: cs := by
  simp only [presentedWords] at h
  cases he : e.event with
  | reset => simp [he] at h
  | idle => exact .inl ⟨rfl, by simpa [he] using h⟩
  | cmd c =>
    simp only [he, Option.map_eq_some_iff] at h
    obtain ⟨cs, hcs, rfl⟩ := h
    exact .inr ⟨c, cs, rfl, hcs, rfl⟩

/-- A stretch without reset does what its words do one after the other. -/
theorem afterEdges_words {es : List Edge} {ws : List CmdWord} (h : presentedWords es = some ws) (b : Block) :
    afterEdges es b = ws.foldl (fun c w => blockStep (.cmd w) c) b := by
  induction es generalizing ws b with
  | nil =>
    obtain rfl : [] = ws := by simpa using h
    rfl
  | cons e es ih =>
    obtain ⟨he, h'⟩ | ⟨c, cs, he, h', rfl⟩ := presentedWords_cons h
    · rw [afterEdges_cons, he, ih h', blockStep_idle]
    · rw [afterEdges_cons, he, ih h', List.foldl_cons]

end Sys2Proof.Machine
end

