-- ==== Sys2Proof/Tests/Slice0.lean ====
section
/-! SUPPORT. Tests: what the well-formedness checks refuse, words written out bit by bit, single steps, and for every
statement with hypotheses a witness that meets them. Expected values are those of spec/95_test_vectors.md, by the section
or row each theorem names, or of the rule it names. -/

namespace Sys2Proof.Tests

open Sys2Proof Sys2Proof.Machine

/-! ### Helpers -/

/-- A small state: a phase, a selection, an accumulator, and no result, no code and no edge to come. -/
def small (p : Phase) (w : Width) (f : Format) (a : Acc) : State where
  phase := p
  cfgW := w
  cfgF := f
  acc := a
  resValid := false
  res := 0#64
  fcode := 0#3
  inputs := []

/-- A small state in phase FAULT with a recorded code. -/
def faulted (code : BitVec 3) : State := { small .fault .w32 .integer 0x12345678#32 with fcode := code }

/-- A small state in phase IDLE that holds the result "bb3d" of P2's buffer as a string. -/
def holding : State := { small .idle .w16 .hexString 0xBB3D#32 with resValid := true, res := 0x64336262#64 }

/-- The next state of a step, the state before where there is none. -/
def nextOf (s : State) : State :=
  match step s with
  | .next t => t
  | .fault _ => s
  | .refused _ => s

/-- The state after one step on an edge that presents this word. -/
def onWord (c : CmdWord) (s : State) : State := nextOf (presentWord c s)

/-! ### Well-formedness: an ill-formed term for each check -/

theorem test_opcode_zero_word_is_refused : wordWellFormed 0b0000000000#10 = false := by decide

theorem test_start_with_bad_field_is_refused : wordWellFormed 0b0100000100#10 = false := by decide

theorem test_finish_with_argument_is_refused : wordWellFormed 0b1100000001#10 = false := by decide

theorem test_row_of_start_refuses_byte_word : matchesStart 0b1000110001#10 = false := by decide

theorem test_row_of_byte_refuses_finish_word : matchesByte 0b1100000000#10 = false := by decide

theorem test_row_of_finish_refuses_start_word : matchesFinish 0b0100000000#10 = false := by decide

theorem test_byte_outside_is_no_legal_order : legalOrder false [.byte 0x31#8] = false := by decide

theorem test_finish_outside_is_no_legal_order : legalOrder false [.finish] = false := by decide

theorem test_start_inside_is_no_legal_order :
    legalOrder false [.start .w16 .integer, .start .w16 .integer, .finish] = false := by decide

theorem test_unfinished_is_no_legal_order : legalOrder false [.start .w16 .integer, .byte 0x31#8] = false := by decide

theorem test_transaction_is_a_legal_order :
    legalOrder false [.start .w16 .integer, .byte 0x31#8, .finish, .start .w32 .integer, .finish] = true := by decide

/-- Every command is well formed: there is no ill-formed term of `Instr` (30_encoding.md R45, R46). -/
theorem test_commands_are_well_formed :
    (Instr.start .w32 .hexString).wellFormed = true ∧ (Instr.byte 0xFF#8).wellFormed = true ∧
      Instr.finish.wellFormed = true := by decide

/-! ### Words written out bit by bit (section 2.7) -/

theorem test_decode_start :
    decode 0b0100000000#10 = .instr (.start .w16 .integer) ∧ decode 0b0100000001#10 = .instr (.start .w32 .integer) ∧
      decode 0b0100000010#10 = .instr (.start .w16 .hexString) ∧
      decode 0b0100000011#10 = .instr (.start .w32 .hexString) := by decide

theorem test_decode_byte :
    decode 0b1000000000#10 = .instr (.byte 0x00#8) ∧ decode 0b1000110001#10 = .instr (.byte 0x31#8) ∧
      decode 0b1011111111#10 = .instr (.byte 0xFF#8) := by decide

theorem test_decode_finish : decode 0b1100000000#10 = .instr .finish := by decide

theorem test_decode_reserved :
    decode 0b0000000000#10 = .reserved .reservedOpcode ∧ decode 0b0011111111#10 = .reserved .reservedOpcode ∧
      decode 0b0100000100#10 = .reserved .reservedField ∧ decode 0b0111111111#10 = .reserved .reservedField ∧
      decode 0b1100000001#10 = .reserved .reservedField ∧ decode 0b1111111111#10 = .reserved .reservedField := by decide

/-- The opcode table's rows as it numbers them, sixteen bits a row; a reserved word has no command. -/
theorem test_table_words :
    decodeTableWord 16 0x0100 = some (.start .w16 .integer) ∧ decodeTableWord 16 0x0231 = some (.byte 0x31#8) ∧
      decodeTableWord 16 0x0300 = some .finish ∧ decodeTableWord 16 0x0104 = none ∧
      decodeTableWord 16 0x0000 = none := by decide

/-- A step from reset runs the word placed for it. -/
theorem test_placed_word_runs_first :
    step (State.reset.withFetchWord 16 0x0103) = exec (.start .w32 .hexString) State.reset := rfl

/-! ### Single steps (section 2.8), at most two a command -/

/-- S2: a held result is withdrawn. -/
theorem test_start_opens :
    onWord 0x103#10 holding =
      { small .active .w32 .hexString 0xFFFFFFFF#32 with res := 0x64336262#64 } := by decide +kernel

/-- S3: START in ACTIVE is no restart. -/
theorem test_start_inside_faults :
    onWord 0x100#10 (small .active .w32 .integer 0x7C231048#32) =
      { small .fault .w32 .integer 0x7C231048#32 with fcode := 3#3 } := by decide

/-- S4. -/
theorem test_byte_in_width_16 :
    onWord 0x231#10 (small .active .w16 .integer 0x00000000#32) = small .active .w16 .integer 0x0000D4C1#32 := by
  decide +kernel

/-- S5. -/
theorem test_byte_in_width_32 :
    onWord 0x231#10 (small .active .w32 .integer 0xFFFFFFFF#32) = small .active .w32 .integer 0x7C231048#32 := by
  decide +kernel

/-- S9, S10: the two formats of one checksum. -/
theorem test_finish_in_width_16 :
    (onWord 0x300#10 (small .active .w16 .integer 0xBB3D#32)).res = 0x000000000000BB3D#64 ∧
      (onWord 0x300#10 (small .active .w16 .hexString 0xBB3D#32)).res = 0x0000000064336262#64 := by decide +kernel

/-- S11, S12: the two formats of one checksum. -/
theorem test_finish_in_width_32 :
    (onWord 0x300#10 (small .active .w32 .integer 0x340BC6D9#32)).res = 0x00000000CBF43926#64 ∧
      (onWord 0x300#10 (small .active .w32 .hexString 0x340BC6D9#32)).res = 0x3632393334666263#64 := by decide +kernel

/-- S17: code 5, not 3. -/
theorem test_reserved_word_in_active :
    onWord 0x1FF#10 (small .active .w16 .integer 0x1234#32) =
      { small .fault .w16 .integer 0x1234#32 with fcode := 5#3 } := by decide

/-- S22: reset leaves FAULT although a word is presented with it. -/
theorem test_reset_leaves_fault :
    (nextOf { faulted 1#3 with inputs := [⟨true, true, 0x300#10⟩] }).phase = .idle ∧
      (nextOf { faulted 1#3 with inputs := [⟨true, true, 0x300#10⟩] }).fcode = 0#3 := by decide

/-! ### The generators and the formatter (sections 2.1, 2.3, 2.6) -/

theorem test_reflect : reflect 0x31#8 = 0x8C#8 ∧ reflect 0x8005#16 = 0xA001#16 := by decide

/-- Section 2.3, the row [9B 41]. -/
theorem test_whole_buffer : crc16 [0x9B#8, 0x41#8] = 0x00AB#16 ∧ crc32 [0x9B#8, 0x41#8] = 0xD2B73028#32 := by
  decide +kernel

theorem test_pack :
    pack (render .hexString .w16 0x0F0F#16) = 0x0000000066306630#64 ∧
      pack (render .hexString .w32 0x90ABCDEF#32) = 0x6665646362613039#64 ∧
      pack (render .integer .w32 0x90ABCDEF#32) = 0x0000000090ABCDEF#64 := by decide +kernel

/-- The tag tells the string "0000" from the integer 0x30303030 (41_formatter.md R84). -/
theorem test_unpack_by_tag :
    unpack 0x30303030#64 0#1 1#1 = .hex4 [0x30#8, 0x30#8, 0x30#8, 0x30#8] ∧
      unpack 0x30303030#64 1#1 0#1 = .int32 0x30303030#32 := by decide +kernel

/-! ### The assembler notation (30_encoding.md section 5) -/

/-- P3's lines. -/
theorem test_compute_text_of_empty_text :
    assemble ["COMPUTE_TEXT w32, hex, \"\"".toList] = some [Edge.ofCmd 0x103#10, Edge.ofCmd 0x300#10] := by decide

/-- P4's word order. -/
theorem test_compute_text :
    assemble ["COMPUTE_TEXT w16, int, \"abc\"".toList] =
      some ([0x100#10, 0x261#10, 0x262#10, 0x263#10, 0x300#10].map Edge.ofCmd) := by decide

theorem test_other_width_is_an_assembly_error : assemble ["START w64, int".toList] = none := by decide

theorem test_other_format_is_an_assembly_error : assemble ["START w16, dec".toList] = none := by decide

theorem test_character_outside_ascii_is_an_assembly_error :
    assemble ["COMPUTE_TEXT w16, int, \"é\"".toList] = none := by decide

/-- P2's last line, after its last step. -/
theorem test_expect_line :
    readLine "EXPECT res_valid = 1, res_width = 0, res_format = 0, res = 0x000000000000BB3D".toList =
        some (.expect [(.resValid, 1), (.resWidth, 0), (.resFormat, 0), (.res, 0xBB3D)]) ∧
      expectHolds [(.resValid, 1), (.resWidth, 0), (.resFormat, 0), (.res, 0xBB3D)]
        (outputs { small .idle .w16 .integer 0xBB3D#32 with resValid := true, res := 0xBB3D#64 }.toBlock) = true := by
  decide +kernel

/-- The numeral forms and ranges the reader takes (log entry 8): three forms for WORD and IDLE, two for BYTE. -/
theorem test_numeral_forms :
    readLine "WORD 0b1111111111".toList = some (.word 0x3FF#10) ∧ readLine "WORD 1023".toList = some (.word 0x3FF#10) ∧
      readLine "WORD 0x400".toList = none ∧ readLine "BYTE 256".toList = none ∧ readLine "BYTE 0b1".toList = none ∧
      readLine "IDLE 0b10".toList = some (.idle 2) ∧ assemble ["IDLE 0".toList] = some [] := by decide

/-- A port that is absent meets no EXPECT line. -/
theorem test_expect_of_absent_port : expectHolds [(.res, 0)] (outputs State.reset.toBlock) = false := by decide

/-! ### Witnesses: encoding -/

/-- Each range of the statement at both ends, with what the table of section 2.7 gives there. -/
theorem witness_DecodeFollowsTheWordRanges :
    ((0x000#10).toNat ≤ 0x0FF ∧ decode 0x000#10 = .reserved .reservedOpcode) ∧
    ((0x0FF#10).toNat ≤ 0x0FF ∧ decode 0x0FF#10 = .reserved .reservedOpcode) ∧
    (0x100 ≤ (0x100#10).toNat ∧ (0x100#10).toNat ≤ 0x103 ∧ decode 0x100#10 = .instr (.start .w16 .integer)) ∧
    (0x100 ≤ (0x103#10).toNat ∧ (0x103#10).toNat ≤ 0x103 ∧ decode 0x103#10 = .instr (.start .w32 .hexString)) ∧
    (0x104 ≤ (0x104#10).toNat ∧ (0x104#10).toNat ≤ 0x1FF ∧ decode 0x104#10 = .reserved .reservedField) ∧
    (0x104 ≤ (0x1FF#10).toNat ∧ (0x1FF#10).toNat ≤ 0x1FF ∧ decode 0x1FF#10 = .reserved .reservedField) ∧
    (0x200 ≤ (0x200#10).toNat ∧ (0x200#10).toNat ≤ 0x2FF ∧ decode 0x200#10 = .instr (.byte 0x00#8)) ∧
    (0x200 ≤ (0x2FF#10).toNat ∧ (0x2FF#10).toNat ≤ 0x2FF ∧ decode 0x2FF#10 = .instr (.byte 0xFF#8)) ∧
    ((0x300#10).toNat = 0x300 ∧ decode 0x300#10 = .instr .finish) ∧
    (0x301 ≤ (0x301#10).toNat ∧ decode 0x301#10 = .reserved .reservedField) ∧
    (0x301 ≤ (0x3FF#10).toNat ∧ decode 0x3FF#10 = .reserved .reservedField) := by decide

theorem witness_DecodeOfEncodeIsTheCommand :
    (Instr.start .w16 .hexString).wellFormed = true ∧ (Instr.byte 0x00#8).wellFormed = true ∧
      Instr.finish.wellFormed = true := by decide

theorem witness_EncodeOfDecodeIsTheWord :
    decode 0x102#10 = .instr (.start .w16 .hexString) ∧ decode 0x2FF#10 = .instr (.byte 0xFF#8) ∧
      decode 0x300#10 = .instr .finish := by decide

/-! ### Witnesses: the step -/

theorem witness_StepRunsTheDecodedCommand :
    (presentWord 0x231#10 holding).inputs = Edge.ofCmd 0x231#10 :: [] ∧ (Edge.ofCmd 0x231#10).rst = false ∧
      (Edge.ofCmd 0x231#10).cmdValid = true ∧ decode (Edge.ofCmd 0x231#10).cmd = .instr (.byte 0x31#8) ∧
      (Instr.byte 0x31#8).wellFormed = true := by decide

/-- Both codes, and all three phases. -/
theorem witness_ReservedWordFaultsOrHasNoEffect :
    ((presentWord 0x0FF#10 holding).inputs = Edge.ofCmd 0x0FF#10 :: [] ∧ (Edge.ofCmd 0x0FF#10).rst = false ∧
      (Edge.ofCmd 0x0FF#10).cmdValid = true ∧ decode (Edge.ofCmd 0x0FF#10).cmd = .reserved .reservedOpcode ∧
      (presentWord 0x0FF#10 holding).phase = .idle) ∧
    (decode (Edge.ofCmd 0x1FF#10).cmd = .reserved .reservedField ∧
      (presentWord 0x1FF#10 (small .active .w16 .integer 0#32)).phase = .active) ∧
    (decode (Edge.ofCmd 0x3FF#10).cmd = .reserved .reservedField ∧
      (presentWord 0x3FF#10 (faulted 1#3)).phase = .fault) := by decide

theorem witness_ResetEdgeHasPriority :
    [(⟨true, true, 0x300#10⟩ : Edge), ⟨true, false, 0x101#10⟩] ≠ [] ∧
      (∀ e ∈ [(⟨true, true, 0x300#10⟩ : Edge), ⟨true, false, 0x101#10⟩], e.rst = true) ∧
      { faulted 2#3 with inputs := [⟨true, true, 0x300#10⟩, ⟨true, false, 0x101#10⟩, Edge.quiet] }.inputs =
        [⟨true, true, 0x300#10⟩, ⟨true, false, 0x101#10⟩] ++ [Edge.quiet] := by decide

/-- A reset leaves FAULT and changes the code: the hypotheses of both clauses. -/
theorem witness_ResetStepWritesAndIsTheOnlyExit :
    (faulted 3#3).phase = .fault ∧ stepEvent .reset (faulted 3#3) = .next State.reset ∧
      State.reset.phase ≠ .fault ∧ State.reset.fcode ≠ (faulted 3#3).fcode :=
  ⟨rfl, rfl, by decide, by decide⟩

theorem witness_StepWithNothingPresentedIdles : holding.inputs = [] := by decide

theorem witness_EveryEventHasOneNextState : stepEvent .idle holding = .next holding := rfl

/-! ### Witnesses: the commands -/

theorem witness_PhaseTable :
    holding.phase = .idle ∧ (small .active .w32 .integer 0#32).phase = .active ∧ (faulted 5#3).phase = .fault ∧
      holding.phase ≠ .fault := by decide

theorem witness_StartOpensATransaction : holding.phase = .idle ∧ State.reset.phase = .idle := by decide

/-- Each corner case: `d = 0` with `acc = 0`, `d = acc[7:0]`, and the two examples. -/
theorem witness_ByteRunsTheCrc16Step :
    ((small .active .w16 .integer 0#32).phase = .active ∧ (small .active .w16 .integer 0#32).cfgW = .w16 ∧
      (0x00#8 = 0#8) ∧ (small .active .w16 .integer 0#32).acc = 0#32 ∧ (0x31#8 = 0x31#8)) ∧
    ((small .active .w16 .integer 0x0000D4C1#32).phase = .active ∧
      (small .active .w16 .integer 0x0000D4C1#32).cfgW = .w16 ∧
      0xC1#8 = (small .active .w16 .integer 0x0000D4C1#32).acc.setWidth 8 ∧
      (small .active .w16 .integer 0x0000D4C1#32).acc = 0x0000D4C1#32 ∧ 0x32#8 = 0x32#8) := by decide

theorem witness_ByteRunsTheCrc32Step :
    ((small .active .w32 .hexString 0xFFFFFFFF#32).phase = .active ∧
      (small .active .w32 .hexString 0xFFFFFFFF#32).cfgW = .w32 ∧
      (small .active .w32 .hexString 0xFFFFFFFF#32).acc = 0xFFFFFFFF#32) ∧
    ((small .active .w32 .hexString 0x7C231048#32).phase = .active ∧
      (small .active .w32 .hexString 0x7C231048#32).cfgW = .w32 ∧
      (small .active .w32 .hexString 0x7C231048#32).acc = 0x7C231048#32) ∧
    (small .active .w32 .hexString 0#32).acc = 0#32 := by decide

theorem witness_ByteWritesAccOnly : (small .active .w32 .hexString 0xFFFFFFFF#32).phase = .active := by decide

theorem witness_FinishClosesTheTransaction : (small .active .w16 .hexString 0xBB3D#32).phase = .active := by decide

/-- The three examples of the rule. -/
theorem witness_FinishDeliversTheInteger :
    ((small .active .w16 .integer 0x0000BB3D#32).phase = .active ∧ (small .active .w16 .integer 0x0000BB3D#32).cfgF = .integer ∧
      (small .active .w16 .integer 0x0000BB3D#32).cfgW = .w16 ∧ (small .active .w16 .integer 0x0000BB3D#32).acc = 0x0000BB3D#32) ∧
    ((small .active .w32 .integer 0x340BC6D9#32).phase = .active ∧ (small .active .w32 .integer 0x340BC6D9#32).cfgF = .integer ∧
      (small .active .w32 .integer 0x340BC6D9#32).cfgW = .w32 ∧ (small .active .w32 .integer 0x340BC6D9#32).acc = 0x340BC6D9#32) ∧
    ((small .active .w32 .integer 0xFFFFFFFF#32).phase = .active ∧ (small .active .w32 .integer 0xFFFFFFFF#32).cfgF = .integer ∧
      (small .active .w32 .integer 0xFFFFFFFF#32).cfgW = .w32 ∧ (small .active .w32 .integer 0xFFFFFFFF#32).acc = 0xFFFFFFFF#32) := by
  decide

/-- The three examples of the rule, the last used lane and the first unused one for width 16, and the last for width 32. -/
theorem witness_FinishDeliversTheHexString :
    ((small .active .w16 .hexString 0x0000BB3D#32).phase = .active ∧
      (small .active .w16 .hexString 0x0000BB3D#32).cfgF = .hexString ∧
      (small .active .w16 .hexString 0x0000BB3D#32).cfgW = .w16 ∧
      (small .active .w16 .hexString 0x0000BB3D#32).acc = 0x0000BB3D#32 ∧
      3 < (small .active .w16 .hexString 0x0000BB3D#32).cfgW.bits / 4 ∧
      (small .active .w16 .hexString 0x0000BB3D#32).cfgW.bits / 4 ≤ 4) ∧
    ((small .active .w32 .hexString 0x340BC6D9#32).phase = .active ∧
      (small .active .w32 .hexString 0x340BC6D9#32).cfgF = .hexString ∧
      (small .active .w32 .hexString 0x340BC6D9#32).cfgW = .w32 ∧
      (small .active .w32 .hexString 0x340BC6D9#32).acc = 0x340BC6D9#32 ∧
      7 < (small .active .w32 .hexString 0x340BC6D9#32).cfgW.bits / 4) ∧
    ((small .active .w16 .hexString 0#32).phase = .active ∧ (small .active .w16 .hexString 0#32).cfgF = .hexString ∧
      (small .active .w16 .hexString 0#32).cfgW = .w16 ∧ (small .active .w16 .hexString 0#32).acc = 0#32) := by decide

/-- FINISH changes `res`; START changes `cfg_w`, `cfg_f` and `acc`; BYTE changes `acc`; a fault changes `fcode`. -/
theorem witness_OnlyItsWriterChangesAnElement :
    (∃ s t : State, Event.cmd 0x300#10 ≠ .reset ∧ stepEvent (.cmd 0x300#10) s = .next t ∧ t.res ≠ s.res) ∧
    (∃ s t : State, Event.cmd 0x103#10 ≠ .reset ∧ stepEvent (.cmd 0x103#10) s = .next t ∧ t.cfgW ≠ s.cfgW ∧
      t.cfgF ≠ s.cfgF ∧ t.acc ≠ s.acc) ∧
    (∃ s t : State, Event.cmd 0x231#10 ≠ .reset ∧ stepEvent (.cmd 0x231#10) s = .next t ∧ t.acc ≠ s.acc) ∧
    (∃ s t : State, Event.cmd 0x231#10 ≠ .reset ∧ stepEvent (.cmd 0x231#10) s = .next t ∧ t.fcode ≠ s.fcode) :=
  ⟨⟨small .active .w16 .integer 0xBB3D#32, _, by decide, rfl, by decide +kernel⟩,
    ⟨small .idle .w16 .integer 0#32, _, by decide, rfl, by decide, by decide, by decide +kernel⟩,
    ⟨small .active .w16 .integer 0#32, _, by decide, rfl, by decide +kernel⟩,
    ⟨small .idle .w16 .integer 0#32, _, by decide, rfl, by decide⟩⟩

theorem witness_OutputPortsFollowTheState : holding.resValid = true ∧ State.reset.resValid = false := by decide

/-- A step that leaves a held result and one that withdraws it. -/
theorem witness_ResValidLivesFromFinishToStart :
    stepEvent .idle holding = .next holding ∧ ∃ t, stepEvent (.cmd 0x100#10) holding = .next t ∧ t.resValid = false :=
  ⟨rfl, _, rfl, rfl⟩

/-! ### Witnesses: faults -/

/-- Each of the five codes (section 2.9). -/
theorem witness_FaultEntryDoesExactlyThreeWrites :
    (∃ t, stepEvent (.cmd 0x231#10) holding = .next t ∧ holding.phase ≠ .fault ∧ t.phase = .fault ∧ t.fcode = 1#3) ∧
    (∃ t, stepEvent (.cmd 0x300#10) holding = .next t ∧ holding.phase ≠ .fault ∧ t.phase = .fault ∧ t.fcode = 2#3) ∧
    (∃ s t : State, stepEvent (.cmd 0x100#10) s = .next t ∧ s.phase ≠ .fault ∧ t.phase = .fault ∧ t.fcode = 3#3) ∧
    (∃ t, stepEvent (.cmd 0x000#10) holding = .next t ∧ holding.phase ≠ .fault ∧ t.phase = .fault ∧ t.fcode = 4#3) ∧
    (∃ t, stepEvent (.cmd 0x3FF#10) holding = .next t ∧ holding.phase ≠ .fault ∧ t.phase = .fault ∧ t.fcode = 5#3) :=
  ⟨⟨_, rfl, by decide, rfl, rfl⟩, ⟨_, rfl, by decide, rfl, rfl⟩,
    ⟨small .active .w16 .integer 0#32, _, rfl, by decide, rfl, rfl⟩, ⟨_, rfl, by decide, rfl, rfl⟩,
    ⟨_, rfl, by decide, rfl, rfl⟩⟩

/-- Both phases, and the ends of the ranges where the branches meet. -/
theorem witness_FaultCodeIsDecidedByWordAndPhase :
    holding.phase ≠ .fault ∧ holding.phase = .idle ∧ (small .active .w16 .integer 0#32).phase ≠ .fault ∧
    (small .active .w16 .integer 0#32).phase = .active ∧
    (0x0FF#10).toNat ≤ 0x0FF ∧ ¬ (0x100#10).toNat ≤ 0x0FF ∧ (0x103#10).toNat ≤ 0x103 ∧ 0x104 ≤ (0x104#10).toNat ∧
    (0x1FF#10).toNat ≤ 0x1FF ∧ ¬ (0x200#10).toNat ≤ 0x1FF ∧ (0x2FF#10).toNat ≤ 0x2FF ∧ ¬ (0x300#10).toNat ≤ 0x2FF ∧
    ¬ 0x301 ≤ (0x300#10).toNat ∧ 0x301 ≤ (0x301#10).toNat := by decide

theorem witness_FaultIgnoresEverythingUntilReset :
    (faulted 1#3).phase = .fault ∧
      { faulted 1#3 with inputs := [Edge.ofCmd 0x103#10, Edge.quiet, Edge.ofCmd 0x000#10, Edge.ofReset] }.inputs =
        [Edge.ofCmd 0x103#10, Edge.quiet, Edge.ofCmd 0x000#10] ++ [Edge.ofReset] ∧
      presentedWords [Edge.ofCmd 0x103#10, Edge.quiet, Edge.ofCmd 0x000#10] = some [0x103#10, 0x000#10] := by decide

/-! ### Witnesses: sequencing -/

/-- A legal sequence and one that is not. -/
theorem witness_PhaseTransitionsAndLegalSequences :
    ({ holding with inputs := [Edge.ofCmd 0x100#10, Edge.quiet, Edge.ofCmd 0x300#10] }.inputs =
        [Edge.ofCmd 0x100#10, Edge.quiet, Edge.ofCmd 0x300#10] ++ [] ∧ holding.phase = .idle ∧
      presentedWords [Edge.ofCmd 0x100#10, Edge.quiet, Edge.ofCmd 0x300#10] =
        some ([Instr.start .w16 .integer, .finish].map encode) ∧
      legalOrder false [Instr.start .w16 .integer, .finish] = true) ∧
    (presentedWords [Edge.ofCmd 0x231#10] = some ([Instr.byte 0x31#8].map encode) ∧
      legalOrder false [Instr.byte 0x31#8] = false) := by decide

/-- An idle edge with a word on `cmd`, and a stretch that holds idle edges. -/
theorem witness_IdleEdgesChangeNothing :
    ({ holding with inputs := [⟨false, false, 0x300#10⟩] }.inputs = ⟨false, false, 0x300#10⟩ :: [] ∧
      (⟨false, false, 0x300#10⟩ : Edge).rst = false ∧ (⟨false, false, 0x300#10⟩ : Edge).cmdValid = false) ∧
    ∃ t, Host.Core.run core 2 { State.reset with inputs := [Edge.quiet, Edge.ofCmd 0x100#10] } = .next t :=
  ⟨by decide, _, rfl⟩

/-- A stretch for each end of a run: nothing yet, complete, faulted, unfinished. -/
theorem witness_RunsEndByWhatTheyPresented :
    presentedWords [Edge.quiet] = some [] ∧
    presentedWords [Edge.ofCmd 0x103#10, Edge.ofCmd 0x300#10] = some [0x103#10, 0x300#10] ∧
    presentedWords [Edge.ofCmd 0x231#10] = some [0x231#10] ∧ presentedWords [Edge.ofCmd 0x101#10] = some [0x101#10] := by
  decide

/-! ### Witnesses: invariants and what cannot be observed -/

/-- A state in each phase that meets the invariant, and a step from it. -/
theorem witness_EveryStepKeepsTheInvariant :
    ((small .active .w16 .integer 0xD4C1#32).Inv ∧ ∃ t, step (small .active .w16 .integer 0xD4C1#32) = .next t) ∧
    ((faulted 5#3).Inv ∧ ∃ t, step (faulted 5#3) = .next t) ∧ (holding.Inv ∧ ∃ t, step holding = .next t) :=
  ⟨⟨⟨by decide, by decide, fun _ _ => by decide, fun h => absurd h (by decide), fun h => absurd h (by decide)⟩, _, rfl⟩,
    ⟨⟨by decide, by decide, fun h => absurd h (by decide), fun h => absurd h (by decide),
      fun h => absurd h (by decide)⟩, _, rfl⟩,
    ⟨⟨by decide, by decide, fun h => absurd h (by decide), fun _ => rfl, fun _ => ⟨0xBB3D#16, by decide +kernel⟩⟩, _,
      rfl⟩⟩

/-- Two different states that are alike. -/
theorem witness_AlikeStatesStayAlike :
    (small .idle .w16 .integer 0#32).Alike (small .idle .w32 .hexString 0x12345678#32) ∧
      small .idle .w16 .integer 0#32 ≠ small .idle .w32 .hexString 0x12345678#32 :=
  ⟨⟨⟨rfl, rfl, rfl, fun h => absurd h (by decide), fun h => absurd h (by decide)⟩, rfl⟩, by decide⟩

/-! ### Witnesses: the transaction -/

/-- A transaction of one byte with an idle edge in it, whose prefix is open after its first word. -/
theorem witness_TransactionContract :
    holding.phase = .idle ∧
    { holding with inputs := [Edge.ofCmd 0x103#10, Edge.quiet, Edge.ofCmd 0x231#10, Edge.ofCmd 0x300#10, Edge.ofReset] }.inputs =
      [Edge.ofCmd 0x103#10, Edge.quiet, Edge.ofCmd 0x231#10, Edge.ofCmd 0x300#10] ++ [Edge.ofReset] ∧
    presentedWords [Edge.ofCmd 0x103#10, Edge.quiet, Edge.ofCmd 0x231#10, Edge.ofCmd 0x300#10] =
      some ((computeCommands .w32 .hexString [0x31#8]).map encode) ∧
    [Edge.ofCmd 0x103#10, Edge.quiet, Edge.ofCmd 0x231#10, Edge.ofCmd 0x300#10] =
      [Edge.ofCmd 0x103#10, Edge.quiet] ++ [Edge.ofCmd 0x231#10, Edge.ofCmd 0x300#10] ∧
    presentedWords [Edge.ofCmd 0x103#10, Edge.quiet] = some [0x103#10] ∧
    0 < [0x103#10].length ∧ [0x103#10].length < [0x31#8].length + 2 := by decide

/-- Both widths, and an event for the last clause that is no FINISH. -/
theorem witness_AccumulatorHoldsTheRunningCrc :
    (holding.phase = .idle ∧
      { holding with inputs := [Edge.ofCmd 0x100#10, Edge.ofCmd 0x231#10] }.inputs =
        [Edge.ofCmd 0x100#10, Edge.ofCmd 0x231#10] ++ [] ∧
      presentedWords [Edge.ofCmd 0x100#10, Edge.ofCmd 0x231#10] =
        some (((Instr.start .w16 .integer) :: [0x31#8].map .byte).map encode) ∧
      presentedWords [Edge.ofCmd 0x101#10, Edge.ofCmd 0x231#10] =
        some (((Instr.start .w32 .integer) :: [0x31#8].map .byte).map encode)) ∧
    ∀ c, Event.cmd 0x231#10 = .cmd c → decode c ≠ .instr .finish :=
  ⟨by decide, fun c h => by cases h; decide⟩

/-- Two different IDLE states, and the same transaction with an idle edge in one of them. -/
theorem witness_ResultIgnoresEarlierState :
    holding.phase = .idle ∧ State.reset.phase = .idle ∧
    { holding with inputs := [Edge.ofCmd 0x101#10, Edge.ofCmd 0x300#10] }.inputs =
      [Edge.ofCmd 0x101#10, Edge.ofCmd 0x300#10] ++ [] ∧
    { State.reset with inputs := [Edge.ofCmd 0x101#10, Edge.quiet, Edge.ofCmd 0x300#10] }.inputs =
      [Edge.ofCmd 0x101#10, Edge.quiet, Edge.ofCmd 0x300#10] ++ [] ∧
    presentedWords [Edge.ofCmd 0x101#10, Edge.ofCmd 0x300#10] = some ((computeCommands .w32 .integer []).map encode) ∧
    presentedWords [Edge.ofCmd 0x101#10, Edge.quiet, Edge.ofCmd 0x300#10] =
      presentedWords [Edge.ofCmd 0x101#10, Edge.ofCmd 0x300#10] := by decide

/-- Operands of both kinds: a number and a character. -/
theorem witness_ComputeLinePresentsTheTransaction :
    [Token.word "0x31".toList, Token.char '2', Token.word "255".toList].map readByte =
      [0x31#8, 0x32#8, 0xFF#8].map some := by decide

/-- Each of the three lines is accepted on some operands. -/
theorem witness_AssemblerRefusesOtherSelections :
    readOperands "start".toList [.word "w16".toList, .comma, .word "hex".toList] =
        some (.instr (.start .w16 .hexString)) ∧
      readOperands "compute".toList [.word "w32".toList, .comma, .word "int".toList] = some (.compute .w32 .integer []) ∧
      readOperands "compute_text".toList
        [.word "w32".toList, .comma, .word "hex".toList, .comma, .text "1".toList] =
          some (.compute .w32 .hexString [0x31#8]) := by decide

/-! ### Witnesses: the generators and the formatter -/

/-- The first and the last bit of each width. -/
theorem witness_ReflectionLaws : 0 < 8 ∧ 7 < 8 ∧ 15 < 16 ∧ 31 < 32 := by decide

/-- Equal entries only at equal indices, here the last one of each table. -/
theorem witness_TableLaws :
    tableEntry (params .w16) (0x7F#8 + 0x80#8) = tableEntry (params .w16) 0xFF#8 ∧
      tableEntry (params .w32) (0x7F#8 + 0x80#8) = tableEntry (params .w32) 0xFF#8 := by decide +kernel

theorem witness_ChecksumsAreAffine :
    [0x31#8, 0x32#8].length = [0x00#8, 0xFF#8].length ∧ [0x00#8, 0xFF#8].length = [0x80#8, 0x01#8].length := by decide

/-- Equal checksums only of equal bytes, with the value the rule selects for 0x61. -/
theorem witness_SingleByteChecksums :
    crc16 [0x60#8 + 0x01#8] = crc16 [0x61#8] ∧ crc32 [0x60#8 + 0x01#8] = crc32 [0x61#8] ∧ crc16 [0x61#8] = 0xE8C1#16 ∧
      crc32 [0x61#8] = 0xE8B7BE43#32 := by decide +kernel

theorem witness_OneByteDifferenceIsDetected : 0x31#8 ≠ 0x30#8 := by decide

/-- The first and the last character of each width, and the nibbles where the digits meet the letters. -/
theorem witness_HexStringShowsEveryNibble :
    0 < Width.w16.bits / 4 ∧ 3 < Width.w16.bits / 4 ∧ 7 < Width.w32.bits / 4 ∧ (9#4).toNat ≤ 9 ∧ 10 ≤ (10#4).toNat ∧
      10 ≤ (15#4).toNat ∧ hexDigit 9#4 = 0x39#8 ∧ hexDigit 10#4 = 0x61#8 ∧ hexDigit 15#4 = 0x66#8 := by decide

/-- P2's buffer of one byte '1' and its two results; a string equals itself. -/
theorem witness_IntegerAndHexStringAgree :
    compute [0x31#8] .w16 .integer = .int16 0xD4C1#16 ∧ compute [0x31#8] .w32 .integer = .int32 0x83DCEFB7#32 ∧
      hexString 0x000A#16 = hexString (10#16) := by decide +kernel

/-- The first bit above each integer, and a string of each length. -/
theorem witness_ResultsOnTheBus :
    16 ≤ 16 ∧ 32 ≤ 32 ∧ (hexString 0xBB3D#16).length = 4 ∧ (hexString 0xCBF43926#32).length = 8 := by decide

/-! ### Witnesses: the machine and the block -/

theorem witness_MachineIsTheBlockOfSevenElements :
    decode 0x231#10 = .instr (.byte 0x31#8) ∧
      { holding with inputs := [Edge.ofCmd 0x231#10, Edge.quiet, Edge.ofReset] }.inputs =
        [Edge.ofCmd 0x231#10, Edge.quiet] ++ [Edge.ofReset] := by decide

end Sys2Proof.Tests
end

section
/-! The rules the statements about the state rest on: what a step answers, what keeps the invariant, which blocks a host
cannot tell apart, and what a transaction's commands leave in the block. Then the statements themselves. -/

namespace Sys2Proof.Machine

open Sys2Proof

/-! ### What a step answers -/

/-- A step on an event answers the block's step, and nothing else. -/
theorem stepEvent_eq_next_iff {ev : Event} {s t : State} :
    stepEvent ev s = .next t ↔ s.onBlock (blockStep ev) = t := by
  rw [stepEvent_eq, Host.Outcome.next.injEq]

/-- The machine's step answers the block's step on the next edge, and nothing else. -/
theorem step_eq_next_iff {s t : State} :
    step s = .next t ↔ (consumeEdge s).onBlock (blockStep (nextEvent s)) = t := by
  rw [step_eq, Host.Outcome.next.injEq]

/-! ### The invariant (10_state.md R26, R20, and the text after the table of R13) -/

theorem faultBits_ne_zero (c : FaultCode) : faultBits c ≠ 0#3 := by cases c <;> decide

theorem faultBits_le_five (c : FaultCode) : faultBits c ≤ 5#3 := by cases c <;> decide

/-- START loads a zero upper half in width 16 (42_commands.md R88). -/
theorem loadedAcc_upper : (loadedAcc .w16).extractLsb' 16 16 = 0#16 := by decide

/-- A 16-bit value extended to the accumulator has a zero upper half. -/
theorem extractLsb'_upper_setWidth (v : BitVec 16) : (v.setWidth 32).extractLsb' 16 16 = 0#16 := by
  apply BitVec.eq_of_getLsbD_eq
  intro i _
  simp [BitVec.getLsbD_extractLsb', BitVec.getLsbD_setWidth]

theorem Block.Inv.fcode_eq_zero {b : Block} (hb : b.Inv) (hp : b.phase ≠ .fault) : b.fcode = 0#3 :=
  not_not.mp fun h => hp (hb.faultRecorded.mpr h)

theorem inv_reset : Block.reset.Inv where
  faultRecorded := by simp
  codeInRange := by decide
  upperZero := by simp
  heldIdle := by simp
  heldRendered := by simp

theorem inv_raiseFault (c : FaultCode) (b : Block) : (raiseFault c b).Inv where
  faultRecorded := by simp [faultBits_ne_zero]
  codeInRange := faultBits_le_five c
  upperZero := by simp
  heldIdle := by simp
  heldRendered := by simp

theorem inv_openTransaction {b : Block} (hb : b.Inv) (hp : b.phase = .idle) (w : Width) (f : Format) :
    (openTransaction w f b).Inv where
  faultRecorded := by simp [hb.fcode_eq_zero (by simp [hp])]
  codeInRange := hb.codeInRange
  upperZero := by
    rintro - rfl
    exact loadedAcc_upper
  heldIdle := by simp
  heldRendered := by simp

/-- While a transaction is open no result is held. -/
theorem Block.Inv.resValid_of_active {b : Block} (hb : b.Inv) (hp : b.phase = .active) : b.resValid = false := by
  cases hv : b.resValid with
  | false => rfl
  | true => simp [hb.heldIdle hv] at hp

theorem inv_absorbByte {b : Block} (hb : b.Inv) (hp : b.phase = .active) (d : Byte) : (absorbByte d b).Inv where
  faultRecorded := hb.faultRecorded
  codeInRange := hb.codeInRange
  upperZero := by
    intro _ hw
    have hw : b.cfgW = .w16 := hw
    rw [absorbByte_acc, hw]
    exact extractLsb'_upper_setWidth _
  heldIdle := by simp [hb.resValid_of_active hp]
  heldRendered := by simp [hb.resValid_of_active hp]

theorem inv_closeTransaction {b : Block} (hb : b.Inv) (hp : b.phase = .active) : (closeTransaction b).Inv where
  faultRecorded := by simp [hb.fcode_eq_zero (by simp [hp])]
  codeInRange := hb.codeInRange
  upperZero := by simp
  heldIdle := by simp
  heldRendered := fun _ => ⟨finalChecksum b.cfgW b.acc, rfl⟩

/-- Every step of the block keeps the invariant. -/
theorem inv_blockStep {b : Block} (hb : b.Inv) (ev : Event) : (blockStep ev b).Inv := by
  rcases blockStep_cases ev b with ⟨-, h⟩ | ⟨-, -, h⟩ | ⟨c, w, f, -, -, hp, h⟩ | ⟨c, d, -, -, hp, h⟩ |
      ⟨c, -, -, hp, h⟩ | ⟨c, code, -, -, -, h⟩ <;> rw [h]
  · exact inv_reset
  · exact hb
  · exact inv_openTransaction hb hp w f
  · exact inv_absorbByte hb hp d
  · exact inv_closeTransaction hb hp
  · exact inv_raiseFault code b

/-- Settles O32: the step is the block's step on the next edge, and each of the effects `blockStep_cases` names keeps the
invariant. -/
theorem everyStepKeepsTheInvariant : Obligations.EveryStepKeepsTheInvariant := by
  intro s t hs h
  obtain rfl := step_eq_next_iff.mp h
  exact inv_blockStep hs _

/-- Settles O31. -/
theorem invariantHoldsAtReset : Obligations.InvariantHoldsAtReset := inv_reset

/-! ### Who changes an element (10_state.md R13, R20) -/

/-- A FINISH that raises a fault is no FINISH in ACTIVE. -/
theorem phase_ne_active_of_finish_faults {c : CmdWord} {p : Phase} {code : FaultCode}
    (h : faultOf (decode c) p = some code) (hd : decode c = .instr .finish) : p ≠ .active := by
  rintro rfl
  simp [hd, faultOf] at h

/-- Settles O21: of the effects `blockStep_cases` names, each writes only its own elements. -/
theorem onlyItsWriterChangesAnElement : Obligations.OnlyItsWriterChangesAnElement := by
  intro s t ev hne h
  obtain rfl := stepEvent_eq_next_iff.mp h
  rw [onBlock_toBlock, onBlock_inputs]
  rcases blockStep_cases ev s.toBlock with ⟨hr, -⟩ | ⟨-, -, h⟩ | ⟨c, w, f, hc, hd, hp, h⟩ | ⟨c, d, hc, hd, hp, h⟩ |
      ⟨c, hc, hd, hp, h⟩ | ⟨c, code, hc, hp, -, h⟩
  · exact absurd hr hne
  · simp [h]
  · rw [h]
    exact ⟨rfl, by simp, fun _ => ⟨c, w, f, hc, hd, hp⟩, fun _ => .inl ⟨c, w, f, hc, hd, hp⟩, by simp⟩
  · rw [h]
    exact ⟨rfl, by simp, by simp, fun _ => .inr ⟨c, d, hc, hd, hp⟩, by simp⟩
  · rw [h]
    exact ⟨rfl, fun _ => ⟨c, hc, hd, hp⟩, by simp, by simp, by simp⟩
  · rw [h]
    exact ⟨rfl, by simp, by simp, by simp, fun _ => ⟨hp, rfl⟩⟩

/-- Settles O23: FINISH in ACTIVE sets `res_valid`; reset, START in IDLE and a fault clear it; nothing else writes it. -/
theorem resValidLivesFromFinishToStart : Obligations.ResValidLivesFromFinishToStart := by
  intro s t ev h
  obtain rfl := stepEvent_eq_next_iff.mp h
  rw [onBlock_toBlock]
  rcases blockStep_cases ev s.toBlock with ⟨rfl, h⟩ | ⟨hr, hn, h⟩ | ⟨c, w, f, rfl, hd, hp, h⟩ | ⟨c, d, rfl, hd, hp, h⟩ |
      ⟨c, rfl, hd, hp, h⟩ | ⟨c, code, rfl, hp, hf, h⟩ <;> rw [h]
  · simp
  · obtain rfl | hp := hn
    · simp
    · simp [hr, hp]
  · simp [hd, hp]
  · simp [hd, hp]
  · simp [hd, hp]
  · simpa [hp] using phase_ne_active_of_finish_faults hf

/-! ### Blocks a host cannot tell apart (10_state.md R24, R29) -/

theorem Block.Alike.refl (b : Block) : b.Alike b where
  phase := rfl
  resValid := rfl
  fcode := rfl
  open' _ := ⟨rfl, rfl, rfl⟩
  held _ := ⟨rfl, rfl, rfl⟩

/-- A fault leaves nothing open and nothing held, so it makes any two blocks alike. -/
theorem alike_raiseFault (c : FaultCode) (a b : Block) : (raiseFault c a).Alike (raiseFault c b) where
  phase := rfl
  resValid := rfl
  fcode := rfl
  open' := by simp
  held := by simp

theorem alike_openTransaction {a b : Block} (h : a.Alike b) (w : Width) (f : Format) :
    (openTransaction w f a).Alike (openTransaction w f b) where
  phase := rfl
  resValid := rfl
  fcode := h.fcode
  open' _ := ⟨rfl, rfl, rfl⟩
  held := by simp

theorem alike_absorbByte {a b : Block} (h : a.Alike b) (hp : a.phase = .active) (d : Byte) :
    (absorbByte d a).Alike (absorbByte d b) := by
  obtain ⟨hw, hf, hacc⟩ := h.open' hp
  exact ⟨h.phase, h.resValid, h.fcode, fun _ => by simp [hw, hf, hacc], h.held⟩

theorem alike_closeTransaction {a b : Block} (h : a.Alike b) (hp : a.phase = .active) :
    (closeTransaction a).Alike (closeTransaction b) := by
  obtain ⟨hw, hf, hacc⟩ := h.open' hp
  exact ⟨rfl, rfl, h.fcode, by simp, fun _ => by simp [hw, hf, hacc]⟩

theorem alike_onIdle {a b : Block} (h : a.Alike b) (i : Instr) : (onIdle i a).Alike (onIdle i b) := by
  cases i with
  | start w f => exact alike_openTransaction h w f
  | byte d => exact alike_raiseFault _ a b
  | finish => exact alike_raiseFault _ a b

theorem alike_onActive {a b : Block} (h : a.Alike b) (hp : a.phase = .active) (i : Instr) :
    (onActive i a).Alike (onActive i b) := by
  cases i with
  | start w f => exact alike_raiseFault _ a b
  | byte d => exact alike_absorbByte h hp d
  | finish => exact alike_closeTransaction h hp

/-- Alike blocks take the same branch of the phase check. -/
theorem alike_byPhase {a b : Block} (h : a.Alike b) {f g : Block → Block} (hf : (f a).Alike (f b))
    (hg : a.phase = .active → (g a).Alike (g b)) : (byPhase f g a).Alike (byPhase f g b) := by
  cases hp : a.phase with
  | idle => rwa [byPhase_idle hp, byPhase_idle (h.phase ▸ hp)]
  | active =>
    rw [byPhase_active hp, byPhase_active (h.phase ▸ hp)]
    exact hg hp
  | fault => rwa [byPhase_fault hp, byPhase_fault (h.phase ▸ hp)]

/-- No event tells alike blocks apart. -/
theorem alike_blockStep {a b : Block} (h : a.Alike b) (ev : Event) : (blockStep ev a).Alike (blockStep ev b) := by
  cases ev with
  | reset => exact .refl _
  | idle => exact h
  | cmd c =>
    cases hd : decode c with
    | instr i =>
      rw [blockStep_instr hd, blockStep_instr hd]
      exact alike_byPhase h (alike_onIdle h i) fun hp => alike_onActive h hp i
    | reserved code =>
      rw [blockStep_reserved hd, blockStep_reserved hd]
      exact alike_byPhase h (alike_raiseFault code a b) fun _ => alike_raiseFault code a b

/-- A port that is absent unless a result is held shows the same in two blocks that hold one together. -/
theorem whileValid_congr {α : Type} {a b : Block} {u v : α} (hv : a.resValid = b.resValid)
    (huv : a.resValid = true → u = v) : whileValid a u = whileValid b v := by
  cases h : a.resValid with
  | false => simp [whileValid, ← hv, h]
  | true => simp [whileValid, ← hv, h, huv h]

theorem outputs_eq_of_alike {a b : Block} (h : a.Alike b) : outputs a = outputs b := by
  have hres := whileValid_congr h.resValid fun hv => (h.held hv).2.2
  have hw := whileValid_congr h.resValid fun hv => congrArg widthBit (h.held hv).1
  have hf := whileValid_congr h.resValid fun hv => congrArg formatBit (h.held hv).2.1
  simp only [outputs, busyFlag, faultFlag, h.phase, h.fcode, h.resValid, hres, hw, hf]

theorem nextEvent_congr {s t : State} (h : s.inputs = t.inputs) : nextEvent s = nextEvent t := by
  simp only [nextEvent, h]

/-- Alike states read the same edge and stay alike. -/
theorem step_alike {s t : State} (h : s.Alike t) :
    ∃ s' t', step s = .next s' ∧ step t = .next t' ∧ s'.Alike t' := by
  refine ⟨_, _, step_eq s, step_eq t, ?_, ?_⟩
  · rw [nextEvent_congr h.inputs]
    exact alike_blockStep h.block _
  · simp [h.inputs]

/-- Settles O33. -/
theorem alikeStatesStayAlike : Obligations.AlikeStatesStayAlike := fun _ _ h =>
  ⟨outputs_eq_of_alike h.block, step_alike h⟩

/-- Any number of steps keeps alike states alike. -/
theorem run_alike (k : Nat) {s t : State} (h : s.Alike t) :
    ∃ s' t', Host.Core.run core k s = .next s' ∧ Host.Core.run core k t = .next t' ∧ s'.Alike t' := by
  induction k generalizing s t with
  | zero => exact ⟨s, t, rfl, rfl, h⟩
  | succ k ih =>
    obtain ⟨s', t', hs, ht, h'⟩ := step_alike h
    rw [run_succ, run_succ, step_eq_next_iff.mp hs, step_eq_next_iff.mp ht]
    exact ih h'

/-- In the reset state nothing is open and nothing is held, so no port or later result shows the other four elements. -/
theorem alike_reset (es : List Edge) (w : Width) (f : Format) (a : Acc) (r : Bus) :
    State.Alike { State.reset with inputs := es }
      { State.reset with inputs := es, cfgW := w, cfgF := f, acc := a, res := r } where
  block := ⟨rfl, rfl, rfl, by simp, by simp⟩
  inputs := rfl

/-- Settles O34: the two reset states are alike, and stay so over any run. -/
theorem unspecifiedResetValuesAreUnobservable : Obligations.UnspecifiedResetValuesAreUnobservable := by
  intro es k w f a r
  obtain ⟨t, u, ht, hu, h⟩ := run_alike k (alike_reset es w f a r)
  exact ⟨t, u, ht, hu, outputs_eq_of_alike h.block⟩

/-! ### Commands presented with idle edges anywhere -/

/-- `op` of a word put together from its two fields (30_encoding.md R42). -/
theorem opField_append (op : BitVec 2) (arg : Byte) : opField (op ++ arg) = op :=
  BitVec.extractLsb'_append_eq_left

/-- `arg` of a word put together from its two fields (30_encoding.md R42). -/
theorem argField_append (op : BitVec 2) (arg : Byte) : argField (op ++ arg) = arg :=
  BitVec.extractLsb'_append_eq_right

/-- A command's word decodes to the command. -/
theorem decode_encode (i : Instr) : decode (encode i) = .instr i := by
  cases i with
  | start w f => cases w <;> cases f <;> decide
  | byte d => simp [encode, decode, opField_append, argField_append]
  | finish => decide

/-- What a command does to the block: the phase check over its two effects. -/
def runInstr (b : Block) (i : Instr) : Block := byPhase (onIdle i) (onActive i) b

theorem blockStep_encode (i : Instr) (b : Block) : blockStep (.cmd (encode i)) b = runInstr b i :=
  blockStep_instr (decode_encode i) b

/-- A stretch of edges that presents the words of some commands runs these commands and nothing else. -/
theorem run_instrs {s : State} {es rest : List Edge} {is : List Instr} (hs : s.inputs = es ++ rest)
    (hw : presentedWords es = some (is.map encode)) :
    Host.Core.run core es.length s = .next { toBlock := is.foldl runInstr s.toBlock, inputs := rest } := by
  rw [run_edges es rest s hs, afterEdges_words hw, List.foldl_map]
  simp only [blockStep_encode]

/-! ### The transaction (10_state.md R14, 43_transaction.md R100) -/

/-- BYTE on an accumulator that holds a `W`-bit register is `upd_W` on the register (42_commands.md R91, R92). -/
theorem absorbedAcc_setWidth (w : Width) (a : BitVec w.bits) (d : Byte) :
    absorbedAcc w (a.setWidth 32) d = (upd (params w) a d).setWidth 32 := by
  cases w with
  | w16 => simp [absorbedAcc, params]
  | w32 => simp [absorbedAcc, params]

theorem foldl_absorbedAcc (w : Width) (buf : List Byte) (a : BitVec w.bits) :
    buf.foldl (absorbedAcc w) (a.setWidth 32) = (buf.foldl (upd (params w)) a).setWidth 32 := by
  induction buf generalizing a with
  | nil => rfl
  | cons d buf ih => rw [List.foldl_cons, absorbedAcc_setWidth, ih, List.foldl_cons]

/-- BYTE commands in ACTIVE do nothing but run the accumulator. -/
theorem foldl_runInstr_bytes (buf : List Byte) {b : Block} (hp : b.phase = .active) :
    (buf.map Instr.byte).foldl runInstr b = { b with acc := buf.foldl (absorbedAcc b.cfgW) b.acc } := by
  induction buf generalizing b with
  | nil => rfl
  | cons d buf ih =>
    rw [List.map_cons, List.foldl_cons, runInstr, byPhase_active hp]
    exact ih hp

/-- The block in which a transaction is open that has absorbed the bytes `buf`. -/
def openedBlock (w : Width) (f : Format) (buf : List Byte) (b : Block) : Block :=
  { openTransaction w f b with acc := (accr (params w) buf).setWidth 32 }

@[simp] theorem openedBlock_phase (w : Width) (f : Format) (buf : List Byte) (b : Block) :
    (openedBlock w f buf b).phase = .active := rfl

@[simp] theorem openedBlock_acc (w : Width) (f : Format) (buf : List Byte) (b : Block) :
    (openedBlock w f buf b).acc = (accr (params w) buf).setWidth 32 := rfl

theorem foldl_runInstr_start_bytes (w : Width) (f : Format) (buf : List Byte) {b : Block} (hp : b.phase = .idle) :
    (Instr.start w f :: buf.map .byte).foldl runInstr b = openedBlock w f buf b := by
  have hstart : runInstr b (.start w f) = openTransaction w f b := byPhase_idle hp _ _
  rw [List.foldl_cons, hstart, foldl_runInstr_bytes buf rfl, openTransaction_cfgW, openTransaction_acc, loadedAcc,
    foldl_absorbedAcc]
  rfl

theorem foldl_runInstr_computeCommands (w : Width) (f : Format) (buf : List Byte) {b : Block} (hp : b.phase = .idle) :
    (computeCommands w f buf).foldl runInstr b = closeTransaction (openedBlock w f buf b) := by
  have hfinish : runInstr (openedBlock w f buf b) .finish = closeTransaction (openedBlock w f buf b) :=
    byPhase_active (openedBlock_phase w f buf b) _ _
  rw [computeCommands, ← List.cons_append, List.foldl_append, foldl_runInstr_start_bytes w f buf hp, List.foldl_cons,
    hfinish, List.foldl_nil]

/-- What a well-formed transaction leaves, from every IDLE state and with idle edges anywhere. -/
theorem run_transaction {s : State} {w : Width} {f : Format} {buf : List Byte} {es rest : List Edge}
    (hp : s.phase = .idle) (hs : s.inputs = es ++ rest)
    (hw : presentedWords es = some ((computeCommands w f buf).map encode)) :
    Host.Core.run core es.length s =
      .next { toBlock := closeTransaction (openedBlock w f buf s.toBlock), inputs := rest } := by
  rw [run_instrs hs hw, foldl_runInstr_computeCommands w f buf hp]

/-! ### Where `acc` reaches (10_state.md R14) -/

/-- The effect lets the value of `acc` reach no element but `acc`. -/
def KeepsAccApart (g : Block → Block) : Prop :=
  ∀ (b : Block) (a : Acc), ∃ a', g { b with acc := a } = { g b with acc := a' }

theorem keepsAccApart_raiseFault (c : FaultCode) : KeepsAccApart (raiseFault c) := fun _ a => ⟨a, rfl⟩

theorem keepsAccApart_onIdle (i : Instr) : KeepsAccApart (onIdle i) := by
  cases i with
  | start w f => exact fun _ _ => ⟨loadedAcc w, rfl⟩
  | byte d => exact keepsAccApart_raiseFault _
  | finish => exact keepsAccApart_raiseFault _

/-- FINISH is the one command that reads `acc` into another element. -/
theorem keepsAccApart_onActive {i : Instr} (hi : i ≠ .finish) : KeepsAccApart (onActive i) := by
  cases i with
  | start w f => exact keepsAccApart_raiseFault _
  | byte d => exact fun b a => ⟨absorbedAcc b.cfgW a d, rfl⟩
  | finish => exact absurd rfl hi

theorem keepsAccApart_byPhase {f g : Block → Block} (hf : KeepsAccApart f) (hg : KeepsAccApart g) :
    KeepsAccApart (byPhase f g) := by
  intro b a
  cases hp : b.phase with
  | idle => simpa only [byPhase, hp] using hf b a
  | active => simpa only [byPhase, hp] using hg b a
  | fault => exact ⟨a, by simp only [byPhase, hp]⟩

theorem keepsAccApart_blockStep {ev : Event} (h : ∀ c, ev = .cmd c → decode c ≠ .instr .finish) :
    KeepsAccApart (blockStep ev) := by
  cases ev with
  | reset => exact fun _ _ => ⟨Block.reset.acc, rfl⟩
  | idle => exact fun _ a => ⟨a, rfl⟩
  | cmd c =>
    cases hd : decode c with
    | instr i =>
      have hi : i ≠ .finish := fun hi => h c rfl (hi ▸ hd)
      rw [funext (blockStep_instr hd)]
      exact keepsAccApart_byPhase (keepsAccApart_onIdle i) (keepsAccApart_onActive hi)
    | reserved code =>
      rw [funext (blockStep_reserved hd)]
      exact keepsAccApart_byPhase (keepsAccApart_raiseFault code) (keepsAccApart_raiseFault code)

/-- Settles O35: the accumulator runs `upd_W` byte by byte, no output is a function of it, and every event but a FINISH
word keeps it apart. -/
theorem accumulatorHoldsTheRunningCrc : Obligations.AccumulatorHoldsTheRunningCrc := by
  refine ⟨fun s w f buf es rest hp hs hw => ?_, fun _ _ => rfl, fun s a ev h => ?_⟩
  · refine ⟨_, run_instrs hs hw, ?_⟩
    rw [foldl_runInstr_start_bytes w f buf hp]
    refine ⟨openedBlock_acc w f buf _, ?_⟩
    rintro rfl
    exact extractLsb'_upper_setWidth _
  · obtain ⟨a', ha'⟩ := keepsAccApart_blockStep h s.toBlock a
    exact ⟨s.onBlock (blockStep ev), a', stepEvent_eq ev s, by rw [stepEvent_eq, State.onBlock, ha', State.onBlock]⟩

/-- Settles O37: what `run_transaction` leaves in `res`, `cfg_w` and `cfg_f` names no element of the state before. -/
theorem resultIgnoresEarlierState : Obligations.ResultIgnoresEarlierState := by
  intro s s' w f buf es es' rest rest' hp hp' hs hs' hw hw'
  exact ⟨_, _, run_transaction hp hs hw, run_transaction hp' hs' (hw'.trans hw), rfl, rfl, rfl, rfl, rfl⟩

/-! ### The machine and the block (10_state.md R13, R27) -/

/-- Settles O58. -/
theorem machineIsTheBlockOfSevenElements : Obligations.MachineIsTheBlockOfSevenElements := by
  refine ⟨fun s ev => stepEvent_eq ev s, blockStep_idle, fun s c i hd => ?_, fun s es rest hs => ?_⟩
  · rw [exec_eq, blockStep_instr hd]
    rfl
  · rw [run_edges es rest s hs, List.foldl_map]
    rfl

/-- Settles O7: an edge with a command on it is the event of its word, and the word runs the command it decodes to. -/
theorem stepRunsTheDecodedCommand : Obligations.StepRunsTheDecodedCommand := by
  intro s e rest i hs hr hv hd _
  have hev : nextEvent s = .cmd e.cmd := by rw [nextEvent_cons hs, event_of_cmd hr hv]
  rw [step, hev, consumeEdge_cons hs]
  simp only [stepEvent, hd]

/-- Settles O12. -/
theorem everyEventHasOneNextState : Obligations.EveryEventHasOneNextState :=
  ⟨fun s ev => ⟨_, stepEvent_eq ev s, fun _ h => (stepEvent_eq_next_iff.mp h).symm⟩, fun s => ⟨_, step_eq s⟩⟩

/-! ### The output ports (10_state.md R23, R24, R29) -/

theorem busyFlag_eq_true_iff (b : Block) : busyFlag b = true ↔ b.phase = .active := beq_iff_eq

theorem faultFlag_eq_true_iff (b : Block) : faultFlag b = true ↔ b.phase = .fault := beq_iff_eq

theorem whileValid_held {α : Type} {b : Block} (h : b.resValid = true) (v : α) : whileValid b v = some v := by
  simp [whileValid, h]

theorem whileValid_absent {α : Type} {b : Block} (h : b.resValid = false) (v : α) : whileValid b v = none := by
  simp [whileValid, h]

theorem widthBit_eq (w : Width) : widthBit w = if w = .w16 then 0#1 else 1#1 := by cases w <;> rfl

theorem formatBit_eq (f : Format) : formatBit f = if f = .integer then 0#1 else 1#1 := by cases f <;> rfl

/-- Settles O22. -/
theorem outputPortsFollowTheState : Obligations.OutputPortsFollowTheState := by
  intro s
  refine ⟨busyFlag_eq_true_iff _, faultFlag_eq_true_iff _, rfl, rfl, fun h => ?_, fun h => ?_, fun _ => rfl⟩
  · rw [← widthBit_eq, ← formatBit_eq]
    exact ⟨whileValid_held h _, whileValid_held h _, whileValid_held h _⟩
  · exact ⟨whileValid_absent h _, whileValid_absent h _, whileValid_absent h _⟩

/-- Settles O30: a reset step answers `Block.reset` from every state, and there no result is held. -/
theorem resetStateIsTheSpecs : Obligations.ResetStateIsTheSpecs :=
  ⟨⟨rfl, rfl, rfl⟩, fun s => ⟨_, stepEvent_eq .reset s, rfl, rfl, rfl, rfl, rfl⟩⟩

end Sys2Proof.Machine
end

section
/-! Two instances side by side (20_memory.md R39, 60_exceptions.md R134): a scheduled step moves its own instance by the
machine's step and leaves the other one alone. -/

namespace Sys2Proof.Machine

open Sys2Proof

/-- A run begins with a step of the machine. -/
theorem run_succ_of_step {s t : State} (h : step s = .next t) (k : Nat) :
    Host.Core.run core (k + 1) s = Host.Core.run core k t := by
  rw [run_succ, step_eq_next_iff.mp h]

/-- The first instance's turn: the second is carried along unchanged. -/
theorem runPair_true_cons {s s' : State} (h : step s = .next s') (sched : List Bool) (t : State) :
    runPair (true :: sched) (s, t) = runPair sched (s', t) := by
  simp only [runPair, h]

/-- The second instance's turn: the first is carried along unchanged. -/
theorem runPair_false_cons {t t' : State} (h : step t = .next t') (sched : List Bool) (s : State) :
    runPair (false :: sched) (s, t) = runPair sched (s, t') := by
  simp only [runPair, h]

/-- Settles O38, by induction on the schedule: the turn it begins with is the first step of that instance's lone run and
counts towards no step of the other. -/
theorem instancesAreIndependent : Obligations.InstancesAreIndependent := by
  intro sched
  induction sched with
  | nil => exact fun p => ⟨p, rfl, run_zero p.1, run_zero p.2⟩
  | cons turn sched ih =>
    rintro ⟨s, t⟩
    cases turn with
    | true =>
      have hs := step_eq s
      obtain ⟨q, hpair, hfirst, hsecond⟩ := ih (_, t)
      refine ⟨q, (runPair_true_cons hs sched t).trans hpair, ?_, ?_⟩
      · rw [List.count_cons_self]
        exact (run_succ_of_step hs _).trans hfirst
      · rwa [List.count_cons_of_ne (by decide)]
    | false =>
      have ht := step_eq t
      obtain ⟨q, hpair, hfirst, hsecond⟩ := ih (s, _)
      refine ⟨q, (runPair_false_cons ht sched s).trans hpair, ?_, ?_⟩
      · rwa [List.count_cons_of_ne (by decide)]
      · rw [List.count_cons_self]
        exact (run_succ_of_step ht _).trans hsecond

end Sys2Proof.Machine
end

section
/-! The encoding (30_encoding.md): the fields of a word, the six branches of the decoder and what the encoder writes in
each field. Then the statements about commands as words. -/

namespace Sys2Proof.Machine

open Sys2Proof

/-! ### The two fields of a word (30_encoding.md R42) -/

theorem opField_append_argField (c : CmdWord) : opField c ++ argField c = c := BitVec.extractLsb'_append_extractLsb'

/-- A word is its two fields. -/
theorem word_ext {c d : CmdWord} (hop : opField c = opField d) (harg : argField c = argField d) : c = d := by
  rw [← opField_append_argField c, ← opField_append_argField d, hop, harg]

theorem word_ext_iff {c d : CmdWord} : c = d ↔ opField c = opField d ∧ argField c = argField d :=
  ⟨fun h => h ▸ ⟨rfl, rfl⟩, fun h => word_ext h.1 h.2⟩

theorem opField_and (c m : CmdWord) : opField (c &&& m) = opField c &&& opField m := BitVec.extractLsb'_and

theorem argField_and (c m : CmdWord) : argField (c &&& m) = argField c &&& argField m := BitVec.extractLsb'_and

theorem opField_toNat (c : CmdWord) : (opField c).toNat = c.toNat / 256 := by
  rw [opField, BitVec.extractLsb'_toNat, Nat.shiftRight_eq_div_pow]
  omega

theorem argField_toNat (c : CmdWord) : (argField c).toNat = c.toNat % 256 := by
  simp [argField, BitVec.extractLsb'_toNat]

theorem argField_eq_setWidth (c : CmdWord) : argField c = c.setWidth 8 := by
  simp [← BitVec.toNat_inj, argField_toNat]

theorem opField_of_toNat {c : CmdWord} {k : Nat} (h : c.toNat / 256 = k) : opField c = BitVec.ofNat 2 k := by
  rw [← h, ← opField_toNat, BitVec.ofNat_toNat, BitVec.setWidth_eq]

theorem argField_eq_zero_iff {c : CmdWord} : argField c = 0#8 ↔ c.toNat % 256 = 0 := by
  rw [← BitVec.toNat_inj, argField_toNat, BitVec.toNat_zero]

/-- The must-be-zero field of START is zero when the argument is below 4. -/
theorem mbzField_eq_zero_iff {c : CmdWord} : (argField c).extractLsb' 2 6 = 0#6 ↔ c.toNat % 256 < 4 := by
  rw [← BitVec.toNat_inj, BitVec.extractLsb'_toNat, argField_toNat, Nat.shiftRight_eq_div_pow, BitVec.toNat_zero]
  omega

/-- The argument of START is its must-be-zero field and the bits `F` and `W`. -/
theorem mbz_append_format_append_width (a : Byte) :
    a.extractLsb' 2 6 ++ a.extractLsb' 1 1 ++ a.extractLsb' 0 1 = a := by
  rw [BitVec.extractLsb'_append_extractLsb'_eq_extractLsb' (show 2 = 1 + 1 from rfl),
    BitVec.extractLsb'_append_extractLsb'_eq_extractLsb' (show 1 = 0 + 1 from rfl), BitVec.extractLsb'_eq_self]

/-! ### The selection bits (30_encoding.md R45, R46) -/

theorem widthBit_widthOfBit (b : BitVec 1) : widthBit (widthOfBit b) = b := by
  obtain rfl | rfl := BitVec.eq_zero_or_eq_one b <;> rfl

theorem formatBit_formatOfBit (b : BitVec 1) : formatBit (formatOfBit b) = b := by
  obtain rfl | rfl := BitVec.eq_zero_or_eq_one b <;> rfl

/-- A field of one bit is that bit. -/
theorem extractLsb'_one_eq_ofBool {n : Nat} (x : BitVec n) (i : Nat) :
    x.extractLsb' i 1 = BitVec.ofBool (x.getLsbD i) := by
  apply BitVec.eq_of_getLsbD_eq
  intro j hj
  obtain rfl : j = 0 := by omega
  simp

theorem widthOfBit_extractLsb' {n : Nat} (x : BitVec n) (i : Nat) :
    widthOfBit (x.extractLsb' i 1) = if x.getLsbD i then .w32 else .w16 := by
  rw [extractLsb'_one_eq_ofBool]
  cases x.getLsbD i <;> rfl

theorem formatOfBit_extractLsb' {n : Nat} (x : BitVec n) (i : Nat) :
    formatOfBit (x.extractLsb' i 1) = if x.getLsbD i then .hexString else .integer := by
  rw [extractLsb'_one_eq_ofBool]
  cases x.getLsbD i <;> rfl

theorem argField_getLsbD (c : CmdWord) {i : Nat} (hi : i < 8) : (argField c).getLsbD i = c.getLsbD i := by
  simp [argField, hi]

/-! ### The branches of the decoder (30_encoding.md R47) -/

section Branches
variable {c : CmdWord}

theorem decode_op_zero (hop : opField c = 0#2) : decode c = .reserved .reservedOpcode := by
  simp [decode, hop]

theorem decode_op_one (hop : opField c = 1#2) (hz : (argField c).extractLsb' 2 6 = 0#6) :
    decode c =
      .instr (.start (widthOfBit ((argField c).extractLsb' 0 1)) (formatOfBit ((argField c).extractLsb' 1 1))) := by
  simp [decode, hop, hz]

theorem decode_op_one_mbz (hop : opField c = 1#2) (hz : (argField c).extractLsb' 2 6 ≠ 0#6) :
    decode c = .reserved .reservedField := by
  simp [decode, hop, hz]

theorem decode_op_two (hop : opField c = 2#2) : decode c = .instr (.byte (argField c)) := by
  simp [decode, hop]

theorem decode_op_three (hop : opField c = 3#2) (hz : argField c = 0#8) : decode c = .instr .finish := by
  simp [decode, hop, hz]

theorem decode_op_three_mbz (hop : opField c = 3#2) (hz : argField c ≠ 0#8) : decode c = .reserved .reservedField := by
  simp [decode, hop, hz]

end Branches

theorem opcode_cases (op : BitVec 2) : op = 0#2 ∨ op = 1#2 ∨ op = 2#2 ∨ op = 3#2 := by
  revert op
  decide

/-- Every word decodes by exactly one of six branches. -/
theorem decode_cases (c : CmdWord) :
    (opField c = 0#2 ∧ decode c = .reserved .reservedOpcode) ∨
    (opField c = 1#2 ∧ (argField c).extractLsb' 2 6 = 0#6 ∧ decode c =
      .instr (.start (widthOfBit ((argField c).extractLsb' 0 1)) (formatOfBit ((argField c).extractLsb' 1 1)))) ∨
    (opField c = 1#2 ∧ (argField c).extractLsb' 2 6 ≠ 0#6 ∧ decode c = .reserved .reservedField) ∨
    (opField c = 2#2 ∧ decode c = .instr (.byte (argField c))) ∨
    (opField c = 3#2 ∧ argField c = 0#8 ∧ decode c = .instr .finish) ∨
    (opField c = 3#2 ∧ argField c ≠ 0#8 ∧ decode c = .reserved .reservedField) := by
  obtain hop | hop | hop | hop := opcode_cases (opField c)
  · exact .inl ⟨hop, decode_op_zero hop⟩
  · by_cases hz : (argField c).extractLsb' 2 6 = 0#6
    · exact .inr (.inl ⟨hop, hz, decode_op_one hop hz⟩)
    · exact .inr (.inr (.inl ⟨hop, hz, decode_op_one_mbz hop hz⟩))
  · exact .inr (.inr (.inr (.inl ⟨hop, decode_op_two hop⟩)))
  · by_cases hz : argField c = 0#8
    · exact .inr (.inr (.inr (.inr (.inl ⟨hop, hz, decode_op_three hop hz⟩))))
    · exact .inr (.inr (.inr (.inr (.inr ⟨hop, hz, decode_op_three_mbz hop hz⟩))))

/-- The code of a reserved word is decided by its opcode (30_encoding.md R50). -/
theorem reserved_code_eq {c : CmdWord} {code : FaultCode} (h : decode c = .reserved code) :
    code = if opField c = 0#2 then .reservedOpcode else .reservedField := by
  obtain ⟨hop, hd⟩ | ⟨-, -, hd⟩ | ⟨hop, -, hd⟩ | ⟨-, hd⟩ | ⟨-, -, hd⟩ | ⟨hop, -, hd⟩ := decode_cases c
  · simp [← Decoded.reserved.inj (hd.symm.trans h), hop]
  · simp [hd] at h
  · simp [← Decoded.reserved.inj (hd.symm.trans h), hop]
  · simp [hd] at h
  · simp [hd] at h
  · simp [← Decoded.reserved.inj (hd.symm.trans h), hop]

/-! ### What the encoder writes (30_encoding.md R44, R48, R49) -/

theorem opField_encode_start (w : Width) (f : Format) : opField (encode (.start w f)) = 1#2 := by
  cases w <;> cases f <;> rfl

theorem argField_encode_start (w : Width) (f : Format) :
    argField (encode (.start w f)) = 0#6 ++ formatBit f ++ widthBit w := by
  cases w <;> cases f <;> rfl

theorem encode_byte_toNat (d : Byte) : (encode (.byte d)).toNat = 0x200 + d.toNat := by
  rw [encode, BitVec.toNat_append, ← Nat.shiftLeft_add_eq_or_of_lt d.isLt]
  rfl

theorem encode_byte_eq_ofNat (d : Byte) : encode (.byte d) = BitVec.ofNat 10 (0x200 + d.toNat) := by
  rw [← encode_byte_toNat, BitVec.ofNat_toNat, BitVec.setWidth_eq]

/-- A word is the word of the command it decodes to: in the three branches that answer a command no bit is dropped. -/
theorem encode_of_decode {c : CmdWord} {i : Instr} (h : decode c = .instr i) : encode i = c := by
  obtain ⟨-, hd⟩ | ⟨hop, hz, hd⟩ | ⟨-, -, hd⟩ | ⟨hop, hd⟩ | ⟨hop, hz, hd⟩ | ⟨-, -, hd⟩ := decode_cases c
  · simp [hd] at h
  · obtain rfl := Decoded.instr.inj (hd.symm.trans h)
    apply word_ext
    · rw [opField_encode_start, hop]
    · rw [argField_encode_start, widthBit_widthOfBit, formatBit_formatOfBit, ← hz, mbz_append_format_append_width]
  · simp [hd] at h
  · obtain rfl := Decoded.instr.inj (hd.symm.trans h)
    exact word_ext ((opField_append _ _).trans hop.symm) (argField_append _ _)
  · obtain rfl := Decoded.instr.inj (hd.symm.trans h)
    exact word_ext ((opField_append _ _).trans hop.symm) ((argField_append _ _).trans hz.symm)
  · simp [hd] at h

/-! ### The rows of the opcode table (30_encoding.md, the table after R51) -/

theorem and_fc_eq_zero_iff : ∀ a : Byte, a &&& 0xFC#8 = 0#8 ↔ a.extractLsb' 2 6 = 0#6 := by decide

theorem matchesStart_iff {c : CmdWord} :
    matchesStart c = true ↔ opField c = 1#2 ∧ (argField c).extractLsb' 2 6 = 0#6 := by
  rw [matchesStart, beq_iff_eq, word_ext_iff, opField_and, argField_and, ← and_fc_eq_zero_iff]
  rw [show opField 0x3FC#10 = BitVec.allOnes 2 from rfl, BitVec.and_allOnes]
  rfl

theorem matchesByte_iff {c : CmdWord} : matchesByte c = true ↔ opField c = 2#2 := by
  rw [matchesByte, beq_iff_eq, word_ext_iff, opField_and, argField_and,
    show opField 0x300#10 = BitVec.allOnes 2 from rfl, show argField 0x300#10 = 0#8 from rfl, BitVec.and_allOnes,
    BitVec.and_zero]
  exact and_iff_left rfl

theorem matchesFinish_iff {c : CmdWord} : matchesFinish c = true ↔ opField c = 3#2 ∧ argField c = 0#8 := by
  rw [matchesFinish, beq_iff_eq, show 0x3FF#10 = BitVec.allOnes 10 from rfl, BitVec.and_allOnes, word_ext_iff]
  rfl

/-! ### The statements about words -/

/-- Settles O3. Every command is well formed, so the hypothesis is not needed. -/
theorem decodeOfEncodeIsTheCommand : Obligations.DecodeOfEncodeIsTheCommand := fun i _ => decode_encode i

/-- Settles O4, in the branches of the decoder that answer a command. -/
theorem encodeOfDecodeIsTheWord : Obligations.EncodeOfDecodeIsTheWord := fun _ _ => encode_of_decode

/-- Settles O5: a row asks of the two fields what the decoder's branch for its command asks of them. -/
theorem opcodeRowsAreExactAndDisjoint : Obligations.OpcodeRowsAreExactAndDisjoint := by
  intro c
  rw [show c.extractLsb' 8 2 = opField c from rfl, wordWellFormed, Bool.or_eq_false_iff, Bool.or_eq_false_iff]
  simp only [← Bool.not_eq_true, matchesStart_iff, matchesByte_iff, matchesFinish_iff]
  obtain ⟨hop, hd⟩ | ⟨hop, hz, hd⟩ | ⟨hop, hz, hd⟩ | ⟨hop, hd⟩ | ⟨hop, hz, hd⟩ | ⟨hop, hz, hd⟩ := decode_cases c
  · simp [hop, hd]
  · simp [hop, hz, hd]
  · simp [hop, hz, hd]
  · simp [hop, hd]
  · simp [hop, hz, hd]
  · simp [hop, hz, hd]

/-- Settles O1: the ranges of words are ranges of the two fields. -/
theorem decodeFollowsTheWordRanges : Obligations.DecodeFollowsTheWordRanges := by
  intro c
  refine ⟨fun h => ?_, fun h h' => ?_, fun h h' => ?_, fun h h' => ?_, fun h => ?_, fun h => ?_⟩
  · have hop : opField c = 0#2 := opField_of_toNat (by omega)
    exact decode_op_zero hop
  · have hop : opField c = 1#2 := opField_of_toNat (by omega)
    have hz : (argField c).extractLsb' 2 6 = 0#6 := mbzField_eq_zero_iff.mpr (by omega)
    rw [decode_op_one hop hz, widthOfBit_extractLsb', formatOfBit_extractLsb', argField_getLsbD c (by decide),
      argField_getLsbD c (by decide)]
  · have hop : opField c = 1#2 := opField_of_toNat (by omega)
    have hz : (argField c).extractLsb' 2 6 ≠ 0#6 := mbzField_eq_zero_iff.not.mpr (by omega)
    exact decode_op_one_mbz hop hz
  · have hop : opField c = 2#2 := opField_of_toNat (by omega)
    rw [decode_op_two hop, argField_eq_setWidth]
  · obtain rfl : c = 0x300#10 := BitVec.eq_of_toNat_eq h
    exact decode_encode .finish
  · have hop : opField c = 3#2 := opField_of_toNat (by omega)
    have hz : argField c ≠ 0#8 := argField_eq_zero_iff.not.mpr (by omega)
    exact decode_op_three_mbz hop hz

/-- Settles O2: two-valued selections by their four words, BYTE by the value of its word. -/
theorem commandWordsAreTheSpecs : Obligations.CommandWordsAreTheSpecs := by
  refine ⟨⟨rfl, rfl, rfl, rfl⟩, fun f w => ?_, fun d => ⟨encode_byte_toNat d, opField_append _ _, ?_⟩, rfl,
    decode_encode .finish⟩
  · refine ⟨opField_encode_start w f, ?_, ?_, ?_, decode_encode _⟩ <;> cases w <;> cases f <;> rfl
  · rw [← encode_byte_eq_ofNat, decode_encode]

/-- Settles O6: a legal word is the word of its command, and a reserved one takes its branch of the decoder. -/
theorem sampleWordsDecode : Obligations.SampleWordsDecode :=
  ⟨decode_op_zero rfl, decode_encode (.start .w16 .hexString), decode_op_one_mbz rfl (by decide),
    decode_encode (.byte 0x31#8), decode_encode .finish, decode_op_three_mbz rfl (by decide)⟩

/-! ### An accepted reserved word (30_encoding.md R50) -/

/-- Settles O8: the step is the phase check over the fault of the word, whose code its opcode decides. -/
theorem reservedWordFaultsOrHasNoEffect : Obligations.ReservedWordFaultsOrHasNoEffect := by
  intro s e rest code hs hr hv hd
  have hcode := reserved_code_eq hd
  have hbits : faultBits code = if code = .reservedOpcode then 4#3 else 5#3 := by
    rw [hcode]
    split <;> rfl
  have hstep : step s = .next { toBlock := reservedWord code s.toBlock, inputs := rest } := by
    rw [step_cons hs, event_of_cmd hr hv, blockStep_reserved hd]
  refine ⟨hcode, fun hp => ?_, fun hp => ?_⟩
  · have hfault : reservedWord code s.toBlock = raiseFault code s.toBlock :=
      hp.elim (byPhase_idle · _ _) (byPhase_active · _ _)
    rw [hstep, hfault, ← hbits]
    rfl
  · rw [hstep, reservedWord, byPhase_fault hp]

end Sys2Proof.Machine
end

section
/-! The assembler notation (30_encoding.md section 5): what the operand readers accept, and the edges of a COMPUTE line. -/

namespace Sys2Proof.Machine

open Sys2Proof

/-! ### The selection of a line (30_encoding.md R55) -/

theorem readWidth_word (w : Width) : readWidth (.word (if w = .w16 then "w16".toList else "w32".toList)) = some w := by
  cases w <;> rfl

theorem readFormat_word (f : Format) :
    readFormat (.word (if f = .integer then "int".toList else "hex".toList)) = some f := by
  cases f <;> rfl

/-- Only the two width words are read as a width. -/
theorem exists_word_of_readWidth {t : Token} {w : Width} (h : readWidth t = some w) :
    ∃ s, t = .word s ∧ (s = ['w', '1', '6'] ∨ s = ['w', '3', '2']) := by
  cases t with
  | word s =>
    simp only [readWidth] at h
    split_ifs at h with h16 h32
    · exact ⟨s, rfl, .inl h16⟩
    · exact ⟨s, rfl, .inr h32⟩
  | _ => cases h

/-- Only the two format words are read as a format. -/
theorem exists_word_of_readFormat {t : Token} {f : Format} (h : readFormat t = some f) :
    ∃ s, t = .word s ∧ (s = ['i', 'n', 't'] ∨ s = ['h', 'e', 'x']) := by
  cases t with
  | word s =>
    simp only [readFormat] at h
    split_ifs at h with hint hhex
    · exact ⟨s, rfl, .inl hint⟩
    · exact ⟨s, rfl, .inr hhex⟩
  | _ => cases h

theorem readSelection_cons (tw tf : Token) (rest : List Token) : readSelection (tw :: .comma :: tf :: rest) =
    (readWidth tw).bind fun w => (readFormat tf).map fun f => (w, f, rest) := rfl

/-- A selection is read off a width word, a comma and a format word, and the tokens after them are left. -/
theorem exists_tokens_of_readSelection {ts : List Token} {sel : Width × Format × List Token}
    (h : readSelection ts = some sel) :
    ∃ tw tf, ts = tw :: .comma :: tf :: sel.2.2 ∧ readWidth tw = some sel.1 ∧ readFormat tf = some sel.2.1 := by
  unfold readSelection at h
  split at h
  · next tw tf rest =>
    obtain ⟨w, hw, h⟩ := Option.bind_eq_some_iff.mp h
    obtain ⟨f, hf, rfl⟩ := Option.map_eq_some_iff.mp h
    exact ⟨tw, tf, rfl, hw, hf⟩
  · cases h

/-! ### The three lines that begin with a selection -/

theorem readOperands_compute (ts : List Token) : readOperands "compute".toList ts =
    (readSelection ts).bind fun sel => (readBytes sel.2.2).map (.compute sel.1 sel.2.1) := rfl

/-- Operands without a selection are an assembly error on each of the three lines. -/
theorem readOperands_of_no_selection {ts : List Token} (h : readSelection ts = none) :
    readOperands "start".toList ts = none ∧ readOperands "compute".toList ts = none ∧
      readOperands "compute_text".toList ts = none := by
  simp [readOperands, h]

/-- Settles O41: an accepted line has a selection, and a selection has one of the two width words and one of the two
format words. -/
theorem assemblerRefusesOtherSelections : Obligations.AssemblerRefusesOtherSelections := by
  intro ts h
  cases hsel : readSelection ts with
  | none =>
    obtain ⟨hstart, hcompute, htext⟩ := readOperands_of_no_selection hsel
    rw [hstart, hcompute, htext] at h
    simp at h
  | some sel =>
    obtain ⟨tw, tf, rfl, hw, hf⟩ := exists_tokens_of_readSelection hsel
    obtain ⟨w, rfl, hw'⟩ := exists_word_of_readWidth hw
    obtain ⟨f, rfl, hf'⟩ := exists_word_of_readFormat hf
    exact ⟨w, f, sel.2.2, rfl, hw', hf'⟩

/-! ### The COMPUTE line (30_encoding.md R53) -/

/-- Byte operands, each after a comma, are read in the order they stand in. -/
theorem readBytes_of_map_readByte {ts : List Token} {buf : List Byte} (h : ts.map readByte = buf.map some) :
    readBytes (ts.flatMap fun t => [.comma, t]) = some buf := by
  induction ts generalizing buf with
  | nil =>
    obtain rfl : buf = [] := by simpa using h.symm
    rfl
  | cons t ts ih =>
    cases buf with
    | nil => cases h
    | cons d buf =>
      obtain ⟨ht, hts⟩ := List.cons.inj h
      simp [readBytes, ht, ih hts]

/-- Edges that present command words present these words. -/
theorem presentedWords_ofCmd (ws : List CmdWord) : presentedWords (ws.map Edge.ofCmd) = some ws := by
  induction ws with
  | nil => rfl
  | cons w ws ih => simp [presentedWords, ih]

theorem edges_compute (w : Width) (f : Format) (buf : List Byte) :
    (Line.compute w f buf).edges = ((computeCommands w f buf).map encode).map Edge.ofCmd := by
  rw [List.map_map]
  rfl

theorem map_encode_computeCommands (w : Width) (f : Format) (buf : List Byte) :
    (computeCommands w f buf).map encode =
      encode (.start w f) :: (buf.map fun d => BitVec.ofNat 10 (0x200 + d.toNat)) ++ [0x300#10] := by
  simp [computeCommands, encode_byte_eq_ofNat, show encode .finish = 0x300#10 from rfl]

/-- Settles O39: the selection and the bytes are read one reader after the other, and each edge presents its word. -/
theorem computeLinePresentsTheTransaction : Obligations.ComputeLinePresentsTheTransaction := by
  intro w f buf
  rw [edges_compute, map_encode_computeCommands]
  refine ⟨fun ts hts => ?_, by simp, presentedWords_ofCmd _⟩
  rw [readOperands_compute, readSelection_cons, readWidth_word, readFormat_word]
  simp [readBytes_of_map_readByte hts]

/-- Settles O40, by running the reader on each line. -/
theorem assemblerExamples : Obligations.AssemblerExamples := by
  refine ⟨?_, ?_, ?_, ?_, ?_, ?_⟩ <;> decide

end Sys2Proof.Machine
end

section
/-! The three forms of the generators (40_crc_generators.md R58 to R65): reflection carries the normal form to the
reflected form, and the byte step of the reflected form is the table form. -/

namespace Sys2Proof.Machine

open Sys2Proof

/-! ### Reflection (40_crc_generators.md R58) -/

/-- Counted from the bottom, the bits of a reflected value are the bits of the value counted from the top. -/
theorem reflect_getLsbD_eq_getMsbD {n : Nat} (v : BitVec n) (i : Nat) : (reflect v).getLsbD i = v.getMsbD i :=
  BitVec.getLsbD_reverse

theorem reflect_getMsbD {n : Nat} (v : BitVec n) (i : Nat) : (reflect v).getMsbD i = v.getLsbD i :=
  BitVec.getMsbD_reverse

theorem reflect_reflect {n : Nat} (v : BitVec n) : reflect (reflect v) = v := BitVec.reverse_reverse_eq

theorem reflect_xor {n : Nat} (a b : BitVec n) : reflect (a ^^^ b) = reflect a ^^^ reflect b := by
  apply BitVec.eq_of_getLsbD_eq
  intro i _
  rw [BitVec.getLsbD_xor, reflect_getLsbD_eq_getMsbD, reflect_getLsbD_eq_getMsbD, reflect_getLsbD_eq_getMsbD,
    BitVec.getMsbD_xor]

theorem reflect_shiftLeft {n : Nat} (v : BitVec n) (k : Nat) : reflect (v <<< k) = reflect v >>> k := by
  apply BitVec.eq_of_getLsbD_eq
  intro i _
  rw [BitVec.getLsbD_ushiftRight, reflect_getLsbD_eq_getMsbD, reflect_getLsbD_eq_getMsbD, BitVec.getMsbD_shiftLeft,
    Nat.add_comm]

/-- The bit that leaves at the top is the bit that leaves at the bottom of the reflected value. -/
theorem reflect_getLsbD_zero {n : Nat} (v : BitVec n) : (reflect v).getLsbD 0 = v.msb :=
  reflect_getLsbD_eq_getMsbD v 0

/-- A byte reflected in the top eight bits is, seen from the other end, the byte in the low eight bits. -/
theorem reflect_byte_at_top {n : Nat} (hn : 8 ≤ n) (d : Byte) :
    reflect ((reflect d).setWidth n <<< (n - 8)) = d.setWidth n := by
  apply BitVec.eq_of_getLsbD_eq
  intro i hi
  rw [reflect_getLsbD_eq_getMsbD, BitVec.getMsbD_shiftLeft, BitVec.getMsbD_setWidth, BitVec.getLsbD_setWidth,
    show i + (n - 8) + 8 - n = i by omega, reflect_getMsbD, decide_eq_true hi,
    decide_eq_true (show n - 8 ≤ i + (n - 8) by omega)]

/-- Settles O42: the laws bit by bit, the fixed values by running `reflect`. -/
theorem reflectionLaws : Obligations.ReflectionLaws := by
  refine ⟨fun n v i hi => ?_, fun _ => reflect_reflect, fun _ => reflect_xor, ?_⟩
  · rw [reflect_getLsbD, decide_eq_true hi, Bool.true_and]
  · decide +kernel

/-! ### The normal form and the reflected form (40_crc_generators.md R64) -/

theorem reflect_normalShift {n : Nat} (poly r : BitVec n) :
    reflect (normalShift poly r) = reflectedShift (reflect poly) (reflect r) := by
  rw [normalShift_eq, reflectedShift_eq, reflect_xor, reflect_shiftLeft, reflect_getLsbD_zero]
  cases r.msb <;> simp

theorem reflect_normalByte {n : Nat} (hn : 8 ≤ n) (p : CrcParams n) (r : BitVec n) (d : Byte) :
    reflect (normalByte p r d) = upd p (reflect r) d := by
  have hshift : Function.Semiconj reflect (normalShift p.poly) (reflectedShift (rpoly p)) := reflect_normalShift p.poly
  rw [normalByte, upd, hshift.iterate_right 8 |>.eq, reflect_xor, reflect_byte_at_top hn]

theorem reflect_normalRegister {n : Nat} (hn : 8 ≤ n) (p : CrcParams n) (buf : List Byte) :
    reflect (normalRegister p buf) = accr p buf :=
  (List.foldl_hom reflect fun r d => (reflect_normalByte hn p r d).symm).symm

theorem crcOf_eq_fin_accr {n : Nat} (hn : 8 ≤ n) (p : CrcParams n) (buf : List Byte) :
    crcOf p buf = fin p (accr p buf) := by
  rw [crcOf, reflect_normalRegister hn, fin]

theorem eight_le_bits (w : Width) : 8 ≤ w.bits := by cases w <;> decide

/-- Settles O44: reflection carries each shift step of the normal form to one of the reflected form. -/
theorem normalAndReflectedFormsAgree : Obligations.NormalAndReflectedFormsAgree := fun w buf =>
  crcOf_eq_fin_accr (eight_le_bits w) (params w) buf

/-! ### The table form (40_crc_generators.md R65) -/

/-- While only zeros leave at the bottom, the shift steps are plain shifts. -/
theorem reflectedShift_iterate_of_low_zero {n : Nat} (rp : BitVec n) (k : Nat) (a : BitVec n)
    (h : ∀ i < k, a.getLsbD i = false) : (reflectedShift rp)^[k] a = a >>> k := by
  induction k with
  | zero => simp
  | succ k ih =>
    have hk : (a >>> k).getLsbD 0 = false := by simpa using h k (Nat.lt_succ_self k)
    rw [Function.iterate_succ_apply', ih fun i hi => h i (Nat.lt_succ_of_lt hi), reflectedShift, hk,
      BitVec.shiftRight_add]
    rfl

/-- A register XORed with its own low byte has a zero low byte. -/
theorem xor_low_byte_getLsbD {n : Nat} (x : BitVec n) {i : Nat} (hi : i < 8) :
    (x ^^^ (x.setWidth 8).setWidth n).getLsbD i = false := by
  rw [BitVec.getLsbD_xor, BitVec.getLsbD_setWidth, BitVec.getLsbD_setWidth, decide_eq_true hi, Bool.true_and]
  by_cases hn : i < n
  · rw [decide_eq_true hn, Bool.true_and, Bool.xor_self]
  · rw [decide_eq_false hn, Bool.false_and, BitVec.getLsbD_of_ge x i (Nat.le_of_not_lt hn), Bool.xor_self]

theorem setWidth_ushiftRight_eight {n : Nat} (d : Byte) : (d.setWidth n) >>> 8 = 0#n := by
  apply BitVec.eq_of_getLsbD_eq
  intro i hi
  simp [BitVec.getLsbD_setWidth]

/-- A byte equal to the low byte of the register leaves only the shift. -/
theorem upd_low_byte {n : Nat} (p : CrcParams n) (a : BitVec n) : upd p a (a.setWidth 8) = a >>> 8 := by
  rw [upd, reflectedShift_iterate_of_low_zero _ _ _ fun _ => xor_low_byte_getLsbD a, BitVec.ushiftRight_xor_distrib,
    setWidth_ushiftRight_eight, BitVec.xor_zero]

/-- Eight shift steps move the upper bits down and look the low byte up. -/
theorem upd_zero_byte {n : Nat} (p : CrcParams n) (x : BitVec n) :
    upd p x 0#8 = (x >>> 8) ^^^ tableEntry p (x.setWidth 8) := by
  have hsplit : upd p x 0#8 = upd p x (x.setWidth 8) ^^^ upd p 0#n (x.setWidth 8) := by
    rw [← upd_xor, BitVec.xor_zero, BitVec.xor_self]
  rw [hsplit, upd_low_byte, tableEntry]

theorem upd_eq_updByTable {n : Nat} (p : CrcParams n) (a : BitVec n) (d : Byte) : upd p a d = updByTable p a d := by
  have hzero : upd p a d = upd p (a ^^^ d.setWidth n) 0#8 := by simp [upd]
  rw [hzero, upd_zero_byte, updByTable, BitVec.ushiftRight_xor_distrib, setWidth_ushiftRight_eight, BitVec.xor_zero]

/-- Settles O45: the byte step is linear, so the upper bits are shifted and the low byte is looked up. -/
theorem tableFormAgrees : Obligations.TableFormAgrees := by
  refine ⟨fun w a d => ⟨upd_eq_updByTable (params w) a d, upd_eq_updByTable (params w) a d⟩, ?_⟩
  decide +kernel

end Sys2Proof.Machine
end

section
/-! The laws of the checksums (40_crc_generators.md R67 to R73). -/

namespace Sys2Proof.Machine

open Sys2Proof

/-! ### The checksums in the reflected form -/

theorem accr_append {n : Nat} (p : CrcParams n) (a b : List Byte) : accr p (a ++ b) = b.foldl (upd p) (accr p a) :=
  List.foldl_append

/-- The 16-bit checksum starts from zero and has no final XOR (00_scope.md R9). -/
theorem crc16_eq_foldl (buf : List Byte) : crc16 buf = buf.foldl (upd params16) 0#16 := by
  rw [crc16, crcOf_eq_fin_accr (by decide), accr, startValue, show params16.init = 0#16 from rfl, reflect_zero]
  exact BitVec.xor_zero

/-- The 32-bit checksum starts from all ones and inverts at the end (00_scope.md R9). -/
theorem crc32_eq_foldl (buf : List Byte) : crc32 buf = buf.foldl (upd params32) 0xFFFFFFFF#32 ^^^ 0xFFFFFFFF#32 := by
  rw [crc32, crcOf_eq_fin_accr (by decide), accr, startValue, show params32.init = 0xFFFFFFFF#32 from rfl,
    show reflect 0xFFFFFFFF#32 = 0xFFFFFFFF#32 by decide +kernel]
  rfl

/-- Settles O48, by running the generators and the formatter. -/
theorem documentedChecksums : Obligations.DocumentedChecksums := by
  unfold Obligations.DocumentedChecksums
  decide +kernel

/-! ### Leading zero bytes (40_crc_generators.md R69) -/

theorem upd_zero_zero {n : Nat} (p : CrcParams n) : upd p 0#n 0#8 = 0#n := by
  rw [upd, BitVec.setWidth_zero, BitVec.xor_zero, Function.iterate_fixed (reflectedShift_zero _)]

theorem crc16_zero_cons (buf : List Byte) : crc16 (0x00#8 :: buf) = crc16 buf := by
  rw [crc16_eq_foldl, crc16_eq_foldl, List.foldl_cons, upd_zero_zero]

theorem crc16_replicate_zero (n : Nat) : crc16 (List.replicate n 0x00#8) = 0#16 := by
  induction n with
  | zero => rw [List.replicate_zero, crc16_eq_foldl, List.foldl_nil]
  | succ n ih => rw [List.replicate_succ, crc16_zero_cons, ih]

/-- Settles O49: a zero byte keeps the zero register, from which width 16 starts. -/
theorem leadingZeroBytes : Obligations.LeadingZeroBytes := by
  refine ⟨crc16_zero_cons, crc16_replicate_zero, ?_⟩
  decide +kernel

/-! ### The affine law (40_crc_generators.md R70) -/

/-- The register runs linearly in the start value and in the bytes. -/
theorem foldl_upd_zipWith_xor {n : Nat} (p : CrcParams n) {a b : List Byte} (h : a.length = b.length) (r s : BitVec n) :
    (List.zipWith (· ^^^ ·) a b).foldl (upd p) (r ^^^ s) = a.foldl (upd p) r ^^^ b.foldl (upd p) s := by
  induction a generalizing b r s with
  | nil =>
    obtain rfl : b = [] := List.eq_nil_of_length_eq_zero h.symm
    rfl
  | cons d a ih =>
    cases b with
    | nil => cases h
    | cons e b =>
      rw [List.zipWith_cons_cons, List.foldl_cons, upd_xor, ih (Nat.succ.inj h), List.foldl_cons, List.foldl_cons]

theorem crcOf_affine {n : Nat} (hn : 8 ≤ n) (p : CrcParams n) {a b c : List Byte} (hab : a.length = b.length)
    (hbc : b.length = c.length) :
    crcOf p (List.zipWith (· ^^^ ·) a (List.zipWith (· ^^^ ·) b c)) = crcOf p a ^^^ crcOf p b ^^^ crcOf p c := by
  have hlen : a.length = (List.zipWith (· ^^^ ·) b c).length := by
    rw [List.length_zipWith, ← hbc, Nat.min_self, hab]
  have hstart : startValue p = startValue p ^^^ (startValue p ^^^ startValue p) := by
    rw [BitVec.xor_self, BitVec.xor_zero]
  have hacc : accr p (List.zipWith (· ^^^ ·) a (List.zipWith (· ^^^ ·) b c)) =
      accr p a ^^^ (accr p b ^^^ accr p c) := by
    conv_lhs => rw [accr, hstart, foldl_upd_zipWith_xor p hlen, foldl_upd_zipWith_xor p hbc]
    rfl
  simp only [crcOf_eq_fin_accr hn, hacc, fin]
  grind

/-- Settles O50: the register is linear in start value and bytes, and three equal constants XOR to one of them. -/
theorem checksumsAreAffine : Obligations.ChecksumsAreAffine := by
  refine ⟨fun w _ _ _ => crcOf_affine (eight_le_bits w) (params w), fun a b h => ?_⟩
  rw [crc16_eq_foldl, crc16_eq_foldl, crc16_eq_foldl, ← foldl_upd_zipWith_xor params16 h, BitVec.xor_zero]

/-! ### The residue (40_crc_generators.md R71) -/

/-- The first `k` bytes of a value, least significant first (40_crc_generators.md R71). -/
def leBytes {n : Nat} (k : Nat) (v : BitVec n) : List Byte := (List.range k).map fun i => v.extractLsb' (8 * i) 8

theorem leBytes_succ {n : Nat} (k : Nat) (v : BitVec n) :
    leBytes (k + 1) v = leBytes k v ++ [(v >>> (8 * k)).setWidth 8] := by
  have hlast : v.extractLsb' (8 * k) 8 = (v >>> (8 * k)).setWidth 8 := BitVec.eq_of_toNat_eq (by simp)
  rw [leBytes, List.range_succ, List.map_append, List.map_singleton, hlast, leBytes]

/-- A register taken in from its own low end is shifted out, and what differs from it runs on as if over zero bytes. -/
theorem foldl_upd_leBytes {n : Nat} (p : CrcParams n) (v e : BitVec n) (k : Nat) :
    (leBytes k v).foldl (upd p) (v ^^^ e) = (v >>> (8 * k)) ^^^ (List.replicate k 0#8).foldl (upd p) e := by
  induction k with
  | zero => simp [leBytes]
  | succ k ih =>
    rw [leBytes_succ, List.foldl_append, ih, List.replicate_succ', List.foldl_append, Nat.mul_succ,
      BitVec.shiftRight_add]
    simp only [List.foldl_cons, List.foldl_nil]
    rw [← upd_low_byte p, ← upd_xor, BitVec.xor_zero]

/-- Appending the checksum's own bytes leaves what the final XOR value becomes over as many zero bytes. -/
theorem crcOf_append_leBytes {n : Nat} (hn : 8 ≤ n) (p : CrcParams n) (buf : List Byte) {k : Nat} (hk : n ≤ 8 * k) :
    crcOf p (buf ++ leBytes k (crcOf p buf)) = fin p ((List.replicate k 0#8).foldl (upd p) p.xorOut) := by
  have hacc : accr p buf = crcOf p buf ^^^ p.xorOut := by
    rw [crcOf_eq_fin_accr hn, fin, BitVec.xor_assoc, BitVec.xor_self, BitVec.xor_zero]
  have hout : crcOf p buf >>> (8 * k) = 0#n := BitVec.ushiftRight_eq_zero hk
  rw [crcOf_eq_fin_accr hn, accr_append, hacc, foldl_upd_leBytes, hout, BitVec.zero_xor]

/-- Settles O51: what is left of the register is the final XOR value run over zero bytes, one constant per width. -/
theorem residueIsConstant : Obligations.ResidueIsConstant := by
  refine ⟨fun buf => ⟨?_, ?_⟩, ?_⟩
  · exact (crcOf_append_leBytes (by decide) params16 buf (k := 2) (by decide)).trans (by decide +kernel)
  · exact (crcOf_append_leBytes (by decide) params32 buf (k := 4) (by decide)).trans (by decide +kernel)
  · decide +kernel

/-! ### One-byte buffers (40_crc_generators.md R72) -/

/-- A shift step reaches zero only from zero: the polynomial's top bit shows that a 1 left. -/
theorem reflectedShift_eq_zero {n : Nat} {rp a : BitVec n} (hrp : rp.msb = true) (h : reflectedShift rp a = 0#n) :
    a = 0#n := by
  rw [reflectedShift_eq] at h
  cases h0 : a.getLsbD 0 with
  | true =>
    have hshift : a >>> 1 = rp := by simpa [h0] using h
    have hmsb : (a >>> 1).msb = false := by simp [BitVec.msb_ushiftRight]
    rw [hshift, hrp] at hmsb
    cases hmsb
  | false =>
    have hshift : a >>> 1 = 0#n := by simpa [h0] using h
    apply BitVec.eq_of_getLsbD_eq
    intro i _
    cases i with
    | zero => simpa using h0
    | succ i => simpa [Nat.add_comm] using congrArg (fun x => x.getLsbD i) hshift

theorem reflectedShift_injective {n : Nat} {rp : BitVec n} (hrp : rp.msb = true) :
    Function.Injective (reflectedShift rp) := by
  intro a b h
  have hzero : reflectedShift rp (a ^^^ b) = 0#n := by rw [reflectedShift_xor, h, BitVec.xor_self]
  exact BitVec.xor_eq_zero_iff.mp (reflectedShift_eq_zero hrp hzero)

theorem rpoly_msb (w : Width) : (rpoly (params w)).msb = true := by cases w <;> decide +kernel

/-- From one register, different bytes lead to different registers. -/
theorem upd_injective (w : Width) (a : BitVec w.bits) : Function.Injective (upd (params w) a) := by
  intro d e h
  have hxor := (reflectedShift_injective (rpoly_msb w)).iterate 8 h
  have hwide : d.setWidth w.bits = e.setWidth w.bits := (BitVec.xor_right_inj a).mp hxor
  have hback : ∀ x : Byte, (x.setWidth w.bits).setWidth 8 = x := fun x =>
    BitVec.setWidth_setWidth_of_le x (eight_le_bits w)
  rw [← hback d, hwide, hback]

theorem crc16_singleton (k : Byte) : crc16 [k] = tableEntry params16 k := crc16_eq_foldl [k]

theorem crc32_singleton (k : Byte) : crc32 [k] = tableEntry params32 (k ^^^ 0xFF#8) ^^^ 0xFF000000#32 := by
  have hindex : (0xFFFFFFFF#32 ^^^ k.setWidth 32).setWidth 8 = k ^^^ 0xFF#8 := by
    rw [BitVec.setWidth_xor, BitVec.setWidth_setWidth_of_le k (by decide), BitVec.xor_comm]
    rfl
  rw [crc32_eq_foldl, List.foldl_cons, List.foldl_nil, upd_eq_updByTable, updByTable, hindex,
    BitVec.xor_comm (0xFFFFFFFF#32 >>> 8), BitVec.xor_assoc]
  rfl

/-- Settles O52: the table form of one byte step, which is injective in the byte. -/
theorem singleByteChecksums : Obligations.SingleByteChecksums := by
  refine ⟨fun k => ⟨crc16_singleton k, crc32_singleton k, fun j => ⟨fun h => ?_, fun h => ?_⟩⟩, ?_⟩
  · rw [crc16_singleton, crc16_singleton] at h
    exact upd_injective .w16 _ h
  · rw [crc32_eq_foldl, crc32_eq_foldl] at h
    exact upd_injective .w32 _ ((BitVec.xor_left_inj _).mp h)
  · decide +kernel

end Sys2Proof.Machine
end

section
/-! The normal form as polynomial division over the two-element field (40_crc_generators.md R57). -/

namespace Sys2Proof.Machine

open Sys2Proof Polynomial

/-- A register read as a polynomial: bit `i` is the coefficient of `x^i` (40_crc_generators.md R57). -/
noncomputable def toPoly {n : Nat} (v : BitVec n) : (ZMod 2)[X] :=
  ∑ i ∈ Finset.range n, if v.getLsbD i then X ^ i else 0

/-- `G_W = x^W + POLY_W` (40_crc_generators.md R57). -/
noncomputable def generatorPoly {n : Nat} (p : CrcParams n) : (ZMod 2)[X] := X ^ n + toPoly p.poly

/-- `M = sum of m_j x^(L-1-j)` over the `L = 8 n` message bits, bit 0 of each byte first (40_crc_generators.md R57). -/
noncomputable def messagePoly (buf : List Byte) : (ZMod 2)[X] :=
  ∑ j ∈ Finset.range (8 * buf.length),
    if (buf.getD (j / 8) 0#8).getLsbD (j % 8) then X ^ (8 * buf.length - 1 - j) else 0

/-! ### Registers as polynomials -/

theorem toPoly_coeff {n : Nat} (v : BitVec n) (i : Nat) : (toPoly v).coeff i = if v.getLsbD i then 1 else 0 := by
  simp only [toPoly, finsetSum_coeff, apply_ite (coeff · i), coeff_X_pow, coeff_zero]
  by_cases hi : i < n
  · rw [Finset.sum_eq_single_of_mem i (Finset.mem_range.mpr hi) fun j _ hj => by simp [hj.symm]]
    simp
  · rw [BitVec.getLsbD_of_ge v i (Nat.le_of_not_lt hi)]
    exact Finset.sum_eq_zero fun j hj => by simp [show i ≠ j by have := Finset.mem_range.mp hj; omega]

theorem toPoly_zero {n : Nat} : toPoly (0#n) = 0 := by
  ext i
  simp [toPoly_coeff]

theorem toPoly_xor {n : Nat} (a b : BitVec n) : toPoly (a ^^^ b) = toPoly a + toPoly b := by
  ext i
  rw [coeff_add, toPoly_coeff, toPoly_coeff, toPoly_coeff, BitVec.getLsbD_xor]
  cases a.getLsbD i <;> cases b.getLsbD i <;> decide

theorem toPoly_twoPow {n i : Nat} (hi : i < n) : toPoly (BitVec.twoPow n i) = X ^ i := by
  ext j
  simp [toPoly_coeff, coeff_X_pow, BitVec.getLsbD_twoPow, hi, eq_comm]

theorem toPoly_degree_lt {n : Nat} (v : BitVec n) : (toPoly v).degree < n := by
  refine (degree_lt_iff_coeff_zero _ n).mpr fun i hi => ?_
  simp [toPoly_coeff, BitVec.getLsbD_of_ge v i hi]

/-- A shift to the left that drops no 1 multiplies by a power of `x`. -/
theorem toPoly_shiftLeft {n : Nat} (v : BitVec n) (k : Nat) (h : ∀ i, n ≤ i + k → v.getLsbD i = false) :
    toPoly (v <<< k) = toPoly v * X ^ k := by
  ext i
  rw [coeff_mul_X_pow', toPoly_coeff, toPoly_coeff, BitVec.getLsbD_shiftLeft]
  by_cases hk : k ≤ i
  · by_cases hi : i < n
    · simp [hk, hi, Nat.not_lt.mpr hk]
    · simp [hk, hi, h (i - k) (by omega)]
  · simp [hk, Nat.lt_of_not_le hk]

theorem toPoly_setWidth {m n : Nat} (hmn : m ≤ n) (v : BitVec m) : toPoly (v.setWidth n) = toPoly v := by
  ext i
  by_cases hi : i < n
  · simp [toPoly_coeff, hi]
  · simp [toPoly_coeff, BitVec.getLsbD_setWidth, hi, BitVec.getLsbD_of_ge v i (by omega)]

/-- A shift to the left multiplies by `x`, but for the 1 that may leave at the top. -/
theorem toPoly_mul_X {n : Nat} (v : BitVec n) : toPoly v * X = toPoly (v <<< 1) + if v.msb then X ^ n else 0 := by
  ext i
  cases i with
  | zero =>
    cases hm : v.msb with
    | false => simp [toPoly_coeff]
    | true =>
      obtain rfl | hn := Nat.eq_zero_or_pos n
      · simp [BitVec.msb] at hm
      · simp [toPoly_coeff, coeff_X_pow, hn.ne]
  | succ i =>
    rw [coeff_mul_X, coeff_add, toPoly_coeff, toPoly_coeff, BitVec.getLsbD_shiftLeft, BitVec.msb_eq_getLsbD_last]
    rcases lt_trichotomy (i + 1) n with hi | rfl | hi
    · simp [hi, apply_ite (coeff · (i + 1)), coeff_X_pow, hi.ne]
    · simp [apply_ite (coeff · (i + 1)), coeff_X_pow]
    · simp [apply_ite (coeff · (i + 1)), coeff_X_pow, hi.ne', BitVec.getLsbD_of_ge v i (by omega), hi.not_gt]

/-! ### The shift step -/

theorem toPoly_normalShift {n : Nat} (p : CrcParams n) (r : BitVec n) :
    toPoly (normalShift p.poly r) = toPoly r * X + if r.msb then generatorPoly p else 0 := by
  rw [normalShift_eq, toPoly_xor, toPoly_mul_X, generatorPoly]
  cases r.msb with
  | false => simp [toPoly_zero]
  | true =>
    simp only [if_true]
    rw [add_assoc, ← add_assoc (X ^ n), CharTwo.add_self_eq_zero, zero_add]

section Residues

variable {n : Nat} (p : CrcParams n)

theorem mk_normalShift (r : BitVec n) : AdjoinRoot.mk (generatorPoly p) (toPoly (normalShift p.poly r)) =
    AdjoinRoot.mk (generatorPoly p) (toPoly r * X) := by
  rw [toPoly_normalShift]
  split <;> simp

theorem mk_normalShift_iterate (k : Nat) (r : BitVec n) :
    AdjoinRoot.mk (generatorPoly p) (toPoly ((normalShift p.poly)^[k] r)) =
      AdjoinRoot.mk (generatorPoly p) (toPoly r * X ^ k) := by
  induction k generalizing r with
  | zero => simp
  | succ k ih => rw [Function.iterate_succ_apply, ih, map_mul, mk_normalShift, ← map_mul, mul_assoc, pow_succ']

/-- A register is the remainder of every polynomial in its residue class modulo `G_W`. -/
theorem toPoly_eq_modByMonic {v : BitVec n} {f : (ZMod 2)[X]}
    (h : AdjoinRoot.mk (generatorPoly p) (toPoly v) = AdjoinRoot.mk (generatorPoly p) f) :
    toPoly v = f %ₘ generatorPoly p := by
  have hmonic : (generatorPoly p).Monic := monic_X_pow_add (toPoly_degree_lt p.poly)
  have hdegree : (toPoly v).degree < (generatorPoly p).degree := by
    rw [generatorPoly, degree_add_eq_left_of_degree_lt (by simpa using toPoly_degree_lt p.poly), degree_X_pow]
    exact toPoly_degree_lt v
  rw [← modByMonic_eq_of_dvd_sub hmonic (AdjoinRoot.mk_eq_mk.mp h), (modByMonic_eq_self_iff hmonic).mpr hdegree]

/-! ### Message bits and bytes -/

/-- The byte, its bit 0 first, is placed in the top eight bits. -/
theorem toPoly_byte_at_top (hn : 8 ≤ n) (d : Byte) :
    toPoly ((reflect d).setWidth n <<< (n - 8)) * X ^ 8 = toPoly (reflect d) * X ^ n := by
  have hlow : ∀ i, n ≤ i + (n - 8) → ((reflect d).setWidth n).getLsbD i = false := fun i hi => by
    rw [BitVec.getLsbD_setWidth, BitVec.getLsbD_of_ge _ i (by omega), Bool.and_false]
  rw [toPoly_shiftLeft _ _ hlow, toPoly_setWidth hn, mul_assoc, ← pow_add, Nat.sub_add_cancel hn]

theorem mk_normalByte (hn : 8 ≤ n) (r : BitVec n) (d : Byte) :
    AdjoinRoot.mk (generatorPoly p) (toPoly (normalByte p r d)) =
      AdjoinRoot.mk (generatorPoly p) (toPoly r * X ^ 8 + toPoly (reflect d) * X ^ n) := by
  rw [normalByte, mk_normalShift_iterate, toPoly_xor, add_mul, toPoly_byte_at_top hn]

end Residues

theorem messagePoly_nil : messagePoly [] = 0 := rfl

/-- Bit 0 of a byte stands highest in the message polynomial. -/
theorem toPoly_reflect_byte (d : Byte) :
    toPoly (reflect d) = ∑ j ∈ Finset.range 8, if d.getLsbD j then X ^ (7 - j) else 0 := by
  rw [toPoly, ← Finset.sum_range_reflect]
  refine Finset.sum_congr rfl fun j hj => ?_
  have hj := Finset.mem_range.mp hj
  rw [reflect_getLsbD, decide_eq_true (by omega), Bool.true_and, show 8 - 1 - (8 - 1 - j) = j by omega]

theorem messagePoly_snoc (buf : List Byte) (d : Byte) :
    messagePoly (buf ++ [d]) = messagePoly buf * X ^ 8 + toPoly (reflect d) := by
  rw [messagePoly, List.length_append, List.length_singleton, Nat.mul_add, Finset.sum_range_add, messagePoly,
    Finset.sum_mul, toPoly_reflect_byte]
  congr 1
  · refine Finset.sum_congr rfl fun j hj => ?_
    have hj := Finset.mem_range.mp hj
    rw [List.getD_append _ _ _ _ (by omega), ite_mul, zero_mul, ← pow_add,
      show 8 * buf.length - 1 - j + 8 = 8 * buf.length + 8 * 1 - 1 - j by omega]
  · refine Finset.sum_congr rfl fun j hj => ?_
    have hj := Finset.mem_range.mp hj
    rw [List.getD_append_right _ _ _ _ (by omega), show (8 * buf.length + j) / 8 - buf.length = 0 by omega,
      show (8 * buf.length + j) % 8 = j by omega, List.getD_cons_zero,
      show 8 * buf.length + 8 * 1 - 1 - (8 * buf.length + j) = 7 - j by omega]

theorem mk_normalRegister {n : Nat} (hn : 8 ≤ n) (p : CrcParams n) (buf : List Byte) :
    AdjoinRoot.mk (generatorPoly p) (toPoly (normalRegister p buf)) =
      AdjoinRoot.mk (generatorPoly p) (toPoly p.init * X ^ (8 * buf.length) + messagePoly buf * X ^ n) := by
  induction buf using List.reverseRecOn with
  | nil => simp [messagePoly_nil]
  | append_singleton buf d ih =>
    rw [normalRegister_snoc, mk_normalByte p hn, map_add, map_mul, ih, ← map_mul, ← map_add, messagePoly_snoc,
      List.length_append, List.length_singleton]
    exact congrArg _ (by ring)

/-- Taking in a message bit at the top adds it times `x^W` (40_crc_generators.md R57). -/
theorem toPoly_xor_top_bit_mul_X {n : Nat} (hn : 0 < n) (r : BitVec n) (m : Bool) :
    toPoly (r ^^^ (if m then BitVec.twoPow n (n - 1) else 0#n)) * X = toPoly r * X + if m then X ^ n else 0 := by
  rw [toPoly_xor, add_mul]
  cases m with
  | false => simp [toPoly_zero]
  | true => simp [toPoly_twoPow (Nat.sub_lt hn Nat.one_pos), ← pow_succ, Nat.sub_add_cancel hn]

/-- Settles O43: each step of the generator keeps the residue class modulo `G_W` that the rule names. -/
theorem normalFormIsPolynomialDivision : Obligations.NormalFormIsPolynomialDivision := by
  intro w
  refine ⟨fun r => ?_, fun r m => ?_, fun buf => ?_⟩
  · exact toPoly_eq_modByMonic (params w) (mk_normalShift (params w) r)
  · have hstep := mk_normalShift (params w) (r ^^^ (if m then BitVec.twoPow w.bits (w.bits - 1) else 0#w.bits))
    rw [toPoly_xor_top_bit_mul_X (Nat.lt_of_lt_of_le (by decide) (eight_le_bits w))] at hstep
    exact toPoly_eq_modByMonic (params w) hstep
  · exact toPoly_eq_modByMonic (params w) (mk_normalRegister (eight_le_bits w) (params w) buf)

end Sys2Proof.Machine
end

section
/-! The result formatter (41_formatter.md): the characters of a hex string, the string read back, the lanes of the bus,
and the bus read back. -/

namespace Sys2Proof.Machine

open Sys2Proof

/-! ### The digits and the characters (41_formatter.md R78, R79, R80) -/

/-- The digits `0` to `9` begin at 0x30, and the letters at 0x61, which is 0x57 + 10 (41_formatter.md R79). -/
theorem hexDigit_toNat (nib : BitVec 4) :
    (hexDigit nib).toNat = (if nib.toNat ≤ 9 then 0x30 else 0x57) + nib.toNat := by
  have hnib := nib.isLt
  have hdigit : 48 + nib.toNat < 256 := by omega
  have hletter : 87 + nib.toNat < 256 := by omega
  simp only [hexDigit, BitVec.le_def, BitVec.reduceToNat]
  split
  · simp [hdigit]
  · simp [hletter]

@[simp] theorem digitValue_hexDigit (nib : BitVec 4) : digitValue (hexDigit nib) = nib.toNat := by
  rw [digitValue, hexDigit_toNat]
  by_cases hnib : nib.toNat ≤ 9
  · rw [if_pos hnib, if_pos (by omega), Nat.add_sub_cancel_left]
  · rw [if_neg hnib, if_neg (by omega), Nat.add_sub_cancel_left]

@[simp] theorem hexString_length {n : Nat} (v : BitVec n) : (hexString v).length = n / 4 := by simp [hexString]

theorem hexString_getElem? {n j : Nat} (v : BitVec n) (hj : j < n / 4) :
    (hexString v)[j]? = some (hexDigit (v.extractLsb' (n - 4 - 4 * j) 4)) := by
  simp [hexString, hj]

/-- Settles O54: a digit's code is 0x30 or 0x57 above its nibble, on either side of the upper case letters. -/
theorem hexStringShowsEveryNibble : Obligations.HexStringShowsEveryNibble := by
  refine ⟨fun w v => ⟨hexString_length v, fun j hj => hexString_getElem? v hj⟩, fun nib => ?_,
    fun w buf => hexString_length _, ?_⟩
  · have hnib := nib.isLt
    rw [hexDigit_toNat]
    split <;> omega
  · decide +kernel

/-! ### The string read back (41_formatter.md R81, R112) -/

theorem unhex_snoc (s : List Byte) (c : Byte) : unhex (s ++ [c]) = 16 * unhex s + digitValue c := by simp [unhex]

/-- The first `k` characters denote the value without its low `n - 4k` bits. -/
theorem unhex_take_hexString {n k : Nat} (v : BitVec n) (hk : 4 * k ≤ n) :
    unhex ((hexString v).take k) = v.toNat >>> (n - 4 * k) := by
  induction k with
  | zero => simp [unhex, Nat.shiftRight_eq_div_pow, Nat.div_eq_of_lt v.isLt]
  | succ k ih =>
    have hlow : n - 4 * (k + 1) = n - 4 - 4 * k := by omega
    have hsplit : n - 4 * k = n - 4 - 4 * k + 4 := by omega
    rw [List.take_add_one, hexString_getElem? v (by omega), Option.toList_some, unhex_snoc, ih (by omega),
      digitValue_hexDigit, BitVec.extractLsb'_toNat, hsplit, Nat.shiftRight_add, Nat.shiftRight_eq_div_pow _ 4, hlow]
    exact Nat.div_add_mod _ (2 ^ 4)

/-- The hex string of a whole number of nibbles reads back as its value (41_formatter.md R81). -/
theorem unhex_hexString {n : Nat} (hn : 4 ∣ n) (v : BitVec n) : unhex (hexString v) = v.toNat := by
  have hk : 4 * (n / 4) = n := Nat.mul_div_cancel' hn
  have h := unhex_take_hexString v hk.le
  rwa [← hexString_length v, List.take_length, hexString_length, hk, Nat.sub_self] at h

theorem hexString_injective {n : Nat} (hn : 4 ∣ n) : Function.Injective (hexString (n := n)) := fun u v h =>
  BitVec.eq_of_toNat_eq (by rw [← unhex_hexString hn u, h, unhex_hexString hn v])

theorem four_dvd_bits (w : Width) : 4 ∣ w.bits := by cases w <;> decide

/-- Settles O55: the string reads back as its value, which is therefore the integer `compute` renders. -/
theorem integerAndHexStringAgree : Obligations.IntegerAndHexStringAgree := by
  refine ⟨fun w v => ⟨unhex_hexString (four_dvd_bits w) v, fun v' h => hexString_injective (four_dvd_bits w) h⟩,
    fun buf n h => ?_, fun buf n h => ?_⟩
  · obtain rfl : crc .w16 buf = n := Result.int16.inj h
    exact ⟨_, rfl, rfl, unhex_hexString (by decide) _⟩
  · obtain rfl : crc .w32 buf = n := Result.int32.inj h
    exact ⟨_, rfl, rfl, unhex_hexString (by decide) _⟩

/-! ### The lanes of the bus (41_formatter.md R82, R83) -/

theorem packLanes_cons_lane_zero (c : Byte) (cs : List Byte) : (packLanes (c :: cs)).extractLsb' 0 8 = c := by
  apply BitVec.eq_of_getLsbD_eq
  intro i hi
  have hbus : i < 64 := by omega
  simp [packLanes_cons, hi, hbus]

theorem packLanes_cons_lane_succ (c : Byte) (cs : List Byte) {k : Nat} (hk : k + 1 < 8) :
    (packLanes (c :: cs)).extractLsb' (8 * (k + 1)) 8 = (packLanes cs).extractLsb' (8 * k) 8 := by
  apply BitVec.eq_of_getLsbD_eq
  intro i hi
  have hsub : 8 * (k + 1) + i - 8 = 8 * k + i := by omega
  have hbus : 8 * (k + 1) + i < 64 := by omega
  have hpast : ¬ 8 * (k + 1) + i < 8 := by omega
  have hchar : c.getLsbD (8 * (k + 1) + i) = false := BitVec.getLsbD_of_ge _ _ (by omega)
  simp only [packLanes_cons, BitVec.getLsbD_extractLsb', BitVec.getLsbD_or, BitVec.getLsbD_shiftLeft,
    BitVec.getLsbD_setWidth, hi, hbus, hpast, hsub, hchar]
  simp

/-- Character `k` stands on lane `k`, one of the bus's eight. -/
theorem packLanes_lane (s : List Byte) {k : Nat} (hk : k < 8) :
    (packLanes s).extractLsb' (8 * k) 8 = s.getD k 0#8 := by
  induction s generalizing k with
  | nil => simp
  | cons c cs ih =>
    cases k with
    | zero => exact packLanes_cons_lane_zero c cs
    | succ k => rw [packLanes_cons_lane_succ c cs hk, ih (by omega), List.getD_cons_succ]

/-- Past the eighth lane the bus has no bits and a string that fits on it has no characters. -/
theorem packLanes_lane_of_length_le {s : List Byte} (hs : s.length ≤ 8) (k : Nat) :
    (packLanes s).extractLsb' (8 * k) 8 = s.getD k 0#8 := by
  obtain hk | hk := Nat.lt_or_ge k 8
  · exact packLanes_lane s hk
  · rw [List.getD_eq_default _ _ (by omega)]
    apply BitVec.eq_of_getLsbD_eq
    intro i hi
    simp [BitVec.getLsbD_of_ge (packLanes s) (8 * k + i) (by omega)]

/-- The bits of a value that is zero-extended onto the bus (41_formatter.md R82). -/
theorem getLsbD_setWidth_bus {n : Nat} (hn : n ≤ 64) (v : BitVec n) (i : Nat) :
    (v.setWidth 64).getLsbD i = v.getLsbD i := by
  rw [BitVec.getLsbD_setWidth, Bool.and_eq_right_iff_imp, decide_eq_true_iff]
  exact fun h => (BitVec.lt_of_getLsbD h).trans_le hn

/-- Settles O56: an integer is extended by zeros, and each character of a string has its lane. -/
theorem resultsOnTheBus : Obligations.ResultsOnTheBus := by
  refine ⟨fun v i => getLsbD_setWidth_bus (by decide) v i, fun v i => getLsbD_setWidth_bus (by decide) v i,
    fun v i hi => (getLsbD_setWidth_bus (by decide) v i).trans (BitVec.getLsbD_of_ge v i hi),
    fun v i hi => (getLsbD_setWidth_bus (by decide) v i).trans (BitVec.getLsbD_of_ge v i hi), by decide, by decide,
    fun s k hs => packLanes_lane_of_length_le (by omega) k, fun s k hs => packLanes_lane_of_length_le (by omega) k, ?_⟩
  decide +kernel

/-! ### The bus read back (41_formatter.md R84) -/

/-- The lanes of a string that fits on the bus are its characters. -/
theorem lanes_packLanes {s : List Byte} {count : Nat} (hs : s.length = count) (hcount : count ≤ 8) :
    lanes count (packLanes s) = s := by
  apply List.ext_getElem (by simp [lanes, hs])
  intro k _ hk
  simp [lanes, packLanes_lane s (show k < 8 by omega), hk]

/-- The tag of a packed result selects the reading that undoes the packing. -/
theorem unpack_pack_render (f : Format) (w : Width) (v : BitVec w.bits) :
    unpack (pack (render f w v)) (widthBit w) (formatBit f) = render f w v := by
  rw [unpack, widthOfBit_widthBit, formatOfBit_formatBit]
  cases f with
  | integer =>
    cases w with
    | w16 => exact congrArg Result.int16 (BitVec.setWidth_setWidth_of_le v (by decide))
    | w32 => exact congrArg Result.int32 (BitVec.setWidth_setWidth_of_le v (by decide))
  | hexString =>
    cases w with
    | w16 => exact congrArg Result.hex4 (lanes_packLanes (hexString_length v) (by decide))
    | w32 => exact congrArg Result.hex8 (lanes_packLanes (hexString_length v) (by decide))

theorem widthBit_eq_ite (w : Width) : widthBit w = if w = .w16 then 0#1 else 1#1 := by cases w <;> rfl

theorem formatBit_eq_ite (f : Format) : formatBit f = if f = .integer then 0#1 else 1#1 := by cases f <;> rfl

/-- Settles O57: the tag the statement writes out is the pair of selection bits. -/
theorem unpackOfPackIsTheResult : Obligations.UnpackOfPackIsTheResult := by
  intro f w v
  rw [← widthBit_eq_ite, ← formatBit_eq_ite]
  exact unpack_pack_render f w v

end Sys2Proof.Machine
end

section
/-! The commands (42_commands.md): what a command answers in each phase, the accumulator BYTE leaves, the result FINISH
leaves, idle steps, and the order in which commands are accepted. -/

namespace Sys2Proof.Machine

open Sys2Proof

/-! ### What a command answers in each phase (42_commands.md R86) -/

theorem exec_of_idle {s : State} (hp : s.phase = .idle) (i : Instr) : exec i s = .next (s.onBlock (onIdle i)) := by
  rw [exec_eq, State.onBlock, byPhase_idle hp, State.onBlock]

theorem exec_of_active {s : State} (hp : s.phase = .active) (i : Instr) : exec i s = .next (s.onBlock (onActive i)) := by
  rw [exec_eq, State.onBlock, byPhase_active hp, State.onBlock]

theorem exec_of_fault {s : State} (hp : s.phase = .fault) (i : Instr) : exec i s = .next s := by
  rw [exec_eq, State.onBlock, byPhase_fault hp]

/-- A reserved word raises its fault wherever none is recorded (30_encoding.md R50). -/
theorem reservedWord_of_ne_fault {b : Block} (hp : b.phase ≠ .fault) (code : FaultCode) :
    reservedWord code b = raiseFault code b := by
  cases h : b.phase with
  | idle => exact byPhase_idle h _ _
  | active => exact byPhase_active h _ _
  | fault => exact absurd h hp

/-- Settles O13: the row of each command by `exec_of_idle`, `exec_of_active` and `exec_of_fault`, that of the reserved
words by the phase check. -/
theorem phaseTable : Obligations.PhaseTable := by
  intro s w f d
  refine ⟨fun hp => exec_of_idle hp _, fun hp => exec_of_idle hp _, fun hp => exec_of_idle hp _,
    fun hp => exec_of_active hp _, fun hp => exec_of_active hp _, fun hp => exec_of_active hp _, fun hp => ?_,
    fun hp => ⟨exec_of_fault hp, fun code => ?_⟩⟩
  · rw [State.onBlock, State.onBlock, reservedWord_of_ne_fault hp, reservedWord_of_ne_fault hp]
    exact ⟨rfl, rfl⟩
  · rw [State.onBlock, reservedWord, byPhase_fault hp]

/-- The two accumulators START loads (42_commands.md R87). -/
theorem loadedAcc_eq (w : Width) : loadedAcc w = if w = .w16 then 0x00000000#32 else 0xFFFFFFFF#32 := by
  cases w <;> decide +kernel

/-- Settles O14. -/
theorem startOpensATransaction : Obligations.StartOpensATransaction := fun _ w _ hp =>
  ⟨_, exec_of_idle hp _, rfl, loadedAcc_eq w, rfl⟩

/-! ### BYTE (42_commands.md R90 to R92) -/

/-- Settles O17: no port is a function of `acc`. -/
theorem byteWritesAccOnly : Obligations.ByteWritesAccOnly := fun s d hp =>
  ⟨absorbedAcc s.cfgW s.acc d, exec_of_active hp _, rfl⟩

/-- The whole state BYTE leaves in ACTIVE. -/
theorem exec_byte_of_active {s : State} (hp : s.phase = .active) {w : Width} (hw : s.cfgW = w) (d : Byte) :
    exec (.byte d) s = .next { s with acc := absorbedAcc w s.acc d } := by
  subst hw
  exact exec_of_active hp _

/-- The printed table of width 16 holds the entries of the formula (44_lookup_tables.md R115). -/
theorem printedT16_getD (k : Byte) : printedT16.getD k.toNat 0#16 = tableEntry params16 k := by
  revert k
  decide +kernel

/-- The printed table of width 32 holds the entries of the formula (44_lookup_tables.md R116). -/
theorem printedT32_getD (k : Byte) : printedT32.getD k.toNat 0#32 = tableEntry params32 k := by
  revert k
  decide +kernel

/-- The table form with the index taken in bytes: the low byte of the register XOR the byte absorbed (R91, R92). -/
theorem upd_eq_shift_xor_tableEntry {n : Nat} (hn : 8 ≤ n) (p : CrcParams n) (a : BitVec n) (d : Byte) :
    upd p a d = (a >>> 8) ^^^ tableEntry p (a.setWidth 8 ^^^ d) := by
  rw [upd_eq_updByTable, updByTable, BitVec.setWidth_xor, BitVec.setWidth_setWidth_of_le d hn, BitVec.setWidth_eq]

/-- Settles O15: the table form of the byte step, the byte steps that only shift, and the examples by running them. -/
theorem byteRunsTheCrc16Step : Obligations.ByteRunsTheCrc16Step := by
  intro s d hp hw
  have hlow : (s.acc.setWidth 16).setWidth 8 = s.acc.setWidth 8 := BitVec.setWidth_setWidth_of_le _ (by decide)
  refine ⟨_, exec_byte_of_active hp hw d, rfl, ?_, extractLsb'_upper_setWidth _, ?_, ?_, ?_, ?_⟩ <;>
    dsimp only [absorbedAcc]
  · rw [printedT16_getD, ← hlow, ← upd_eq_shift_xor_tableEntry (by decide),
      BitVec.setWidth_setWidth_of_le _ (by decide), BitVec.setWidth_eq]
  · intro hd ha
    rw [hd, ha, BitVec.setWidth_zero, upd_zero_zero, BitVec.setWidth_zero]
  · intro hd
    rw [hd, ← hlow, upd_low_byte]
  all_goals
    intro ha hd
    rw [ha, hd]
    decide +kernel

/-- A 32-bit value XORed with its shifts by one, two and three bytes: what undoes `a ↦ a ^^^ (a >>> 8)`. -/
def xorByteShifts (t : BitVec 32) : BitVec 32 := t ^^^ (t >>> 8) ^^^ (t >>> 16) ^^^ (t >>> 24)

/-- After four bytes the shift has forgotten the register. -/
theorem eq_xorByteShifts {a t : BitVec 32} (h : a = (a >>> 8) ^^^ t) : a = xorByteShifts t := by
  have hshift (k : Nat) : a >>> k = (a >>> (8 + k)) ^^^ (t >>> k) := by
    conv_lhs => rw [h]
    rw [BitVec.ushiftRight_xor_distrib, ← BitVec.shiftRight_add]
  have hout : a >>> 32 = 0#32 := BitVec.ushiftRight_eq_zero (by decide)
  rw [h, hshift 8, hshift 16, hshift 24, hout, BitVec.zero_xor, xorByteShifts]
  ac_rfl

/-- Of the registers `eq_xorByteShifts` leaves, one for each byte looked up, only that of byte 0 has its byte lowest. -/
theorem eq_zero_of_low_byte_xorByteShifts {k : Byte}
    (h : (xorByteShifts (tableEntry params32 k)).setWidth 8 = k) : k = 0#8 := by
  revert k
  decide +kernel

/-- A zero byte moves every register of width 32 but the zero register (42_commands.md R92). -/
theorem upd_params32_zero_eq_self_iff (a : BitVec 32) : upd params32 a 0#8 = a ↔ a = 0#32 := by
  constructor
  · intro h
    have hself : a = xorByteShifts (tableEntry params32 (a.setWidth 8)) :=
      eq_xorByteShifts (h.symm.trans (upd_zero_byte params32 a))
    have hlow : a.setWidth 8 = 0#8 := eq_zero_of_low_byte_xorByteShifts (congrArg (BitVec.setWidth 8) hself).symm
    rw [hself, hlow]
    decide +kernel
  · rintro rfl
    exact upd_zero_zero params32

/-- Settles O16: the table form of the byte step, from which a fixed register is read off its low byte, and the examples by
running them. -/
theorem byteRunsTheCrc32Step : Obligations.ByteRunsTheCrc32Step := by
  intro s d hp hw
  refine ⟨_, exec_byte_of_active hp hw d, rfl, ?_, ?_, ?_, ?_, ?_⟩ <;> dsimp only [absorbedAcc]
  · rw [printedT32_getD, ← upd_eq_shift_xor_tableEntry (by decide)]
  · rintro rfl
    exact upd_params32_zero_eq_self_iff s.acc
  all_goals
    intro ha hd
    rw [ha, hd]
    decide +kernel

/-! ### FINISH (42_commands.md R93 to R95) -/

/-- Settles O18. -/
theorem finishClosesTheTransaction : Obligations.FinishClosesTheTransaction := by
  intro s hp
  refine ⟨_, exec_of_active hp _, rfl, ?_⟩
  rw [← widthBit_eq, ← formatBit_eq]
  rfl

/-- The whole state FINISH leaves in ACTIVE. -/
theorem exec_finish_of_active {s : State} (hp : s.phase = .active) {f : Format} (hf : s.cfgF = f) :
    exec .finish s = .next { s with res := finishedRes s.cfgW f s.acc, resValid := true, phase := .idle } := by
  subst hf
  exact exec_of_active hp _

theorem finishedRes_integer (w : Width) (acc : Acc) :
    finishedRes w .integer acc = (finalChecksum w acc).setWidth 64 := by
  cases w with
  | w16 => rfl
  | w32 => rfl

theorem finishedRes_hexString (w : Width) (acc : Acc) :
    finishedRes w .hexString acc = packLanes (hexString (finalChecksum w acc)) := by
  cases w with
  | w16 => rfl
  | w32 => rfl

/-- Settles O19: the rendering as an integer is the checksum, extended onto the bus; the examples run. -/
theorem finishDeliversTheInteger : Obligations.FinishDeliversTheInteger := by
  intro s hp hf
  refine ⟨_, exec_finish_of_active hp hf, finishedRes_integer s.cfgW s.acc, ?_, ?_, ?_⟩ <;> dsimp only
  all_goals
    intro hw ha
    rw [hw, ha]
    decide +kernel

/-- Lane `k` of a hex string on the bus is its digit `k`, counted from the most significant. -/
theorem packLanes_hexString_lane {n k : Nat} (v : BitVec n) (hn : n ≤ 32) (hk : k < n / 4) :
    (packLanes (hexString v)).extractLsb' (8 * k) 8 = hexDigit (v.extractLsb' (n - 4 - 4 * k) 4) := by
  rw [packLanes_lane _ (by omega), List.getD_eq_getElem?_getD, hexString_getElem? v hk, Option.getD_some]

/-- A lane past the last digit is zero. -/
theorem packLanes_hexString_unused {n k : Nat} (v : BitVec n) (hn : n ≤ 32) (hk : n / 4 ≤ k) :
    (packLanes (hexString v)).extractLsb' (8 * k) 8 = 0#8 := by
  have hlen : (hexString v).length = n / 4 := hexString_length v
  rw [packLanes_lane_of_length_le (by omega), List.getD_eq_default _ _ (by omega)]

theorem bits_le_thirtyTwo (w : Width) : w.bits ≤ 32 := by cases w <;> decide

/-- Settles O20: the rendering as a string has its digits on the lanes, and no digit on the others; the examples run. -/
theorem finishDeliversTheHexString : Obligations.FinishDeliversTheHexString := by
  intro s hp hf
  refine ⟨_, exec_finish_of_active hp hf, fun k hk => ?_, fun k hk => ?_, ?_, ?_, ?_⟩ <;> dsimp only
  · rw [finishedRes_hexString, packLanes_hexString_lane _ (bits_le_thirtyTwo _) hk, finalChecksum, fin]
  · rw [finishedRes_hexString, packLanes_hexString_unused _ (bits_le_thirtyTwo _) hk]
  all_goals
    intro hw ha
    rw [hw, ha]
    decide +kernel

/-! ### Idle steps (42_commands.md R96) -/

/-- A step on an idle edge only takes the edge. -/
theorem step_of_idle {s : State} (h : nextEvent s = .idle) : step s = .next (consumeEdge s) := by
  rw [step_eq, h, State.onBlock, blockStep_idle]

/-- Settles O11. -/
theorem stepWithNothingPresentedIdles : Obligations.StepWithNothingPresentedIdles := by
  intro s hs
  rw [step_of_idle (nextEvent_nil hs), consumeEdge_nil hs]

/-- Leaving the idle edges out of a stretch leaves the block it ends in. -/
theorem afterEdges_filter_ne_idle (es : List Edge) (b : Block) :
    afterEdges (es.filter fun e => decide (e.event ≠ .idle)) b = afterEdges es b := by
  induction es generalizing b with
  | nil => rfl
  | cons e es ih =>
    by_cases he : e.event = .idle
    · rw [List.filter_cons_of_neg (by simp [he]), ih, afterEdges_cons, he, blockStep_idle]
    · rw [List.filter_cons_of_pos (by simp [he]), afterEdges_cons, ih, afterEdges_cons]

/-- Settles O28: the run over a stretch is the block's steps on its edges, and an idle edge is no step. -/
theorem idleEdgesChangeNothing : Obligations.IdleEdgesChangeNothing := by
  refine ⟨fun s e rest hs hr hv => ?_, fun s t es rest hs h => ?_⟩
  · rw [step_of_idle (by rw [nextEvent_cons hs, event_of_quiet hr hv]), consumeEdge_cons hs]
  · rw [← h, run_edges es rest s hs, run_edges _ rest _ rfl, afterEdges_filter_ne_idle]

/-! ### The order of commands (42_commands.md R97) -/

theorem blockStep_of_fault {b : Block} (hp : b.phase = .fault) (c : CmdWord) : blockStep (.cmd c) b = b := by
  cases hd : decode c with
  | instr i => rw [blockStep_instr hd, byPhase_fault hp]
  | reserved code => rw [blockStep_reserved hd, reservedWord, byPhase_fault hp]

/-- No command leaves phase FAULT. -/
theorem foldl_runInstr_fault (is : List Instr) {b : Block} (hp : b.phase = .fault) : is.foldl runInstr b = b :=
  List.foldl_fixed' (fun i => byPhase_fault hp (onIdle i) (onActive i)) is

/-- From IDLE (`inside = false`) or ACTIVE (`inside = true`), commands end in IDLE exactly if they stand in a legal order:
the first one out of order faults, and a fault stays. -/
theorem foldl_runInstr_phase_idle_iff (is : List Instr) (inside : Bool) {b : Block}
    (hp : b.phase = if inside then .active else .idle) :
    (is.foldl runInstr b).phase = .idle ↔ legalOrder inside is = true := by
  induction is generalizing inside b with
  | nil => cases inside <;> simp [hp, legalOrder]
  | cons i is ih =>
    rw [List.foldl_cons]
    have hfault {c : Block} (hc : c.phase = .fault) (hi : legalOrder inside (i :: is) = false) :
        (is.foldl runInstr c).phase = .idle ↔ legalOrder inside (i :: is) = true := by
      simp [foldl_runInstr_fault is hc, hc, hi]
    cases inside with
    | false =>
      rw [runInstr, byPhase_idle hp]
      cases i with
      | start w f => exact ih true rfl
      | byte d => exact hfault rfl rfl
      | finish => exact hfault rfl rfl
    | true =>
      rw [runInstr, byPhase_active hp]
      cases i with
      | start w f => exact hfault rfl rfl
      | byte d => exact ih true hp
      | finish => exact ih false rfl

/-- Settles O27: the transition table by phase and decode result, and the legal orders by `foldl_runInstr_phase_idle_iff`
on the commands a stretch of edges presents. -/
theorem phaseTransitionsAndLegalSequences : Obligations.PhaseTransitionsAndLegalSequences := by
  refine ⟨fun s ev => ⟨_, stepEvent_eq ev s, ?_⟩, fun s es rest is hp hs hw => ?_⟩
  · rw [onBlock_toBlock]
    cases ev with
    | reset => cases s.phase <;> rfl
    | idle => rw [blockStep_idle]
    | cmd c =>
      cases hp : s.phase with
      | fault => rw [blockStep_of_fault hp, hp]
      | idle =>
        cases hd : decode c with
        | reserved code => simp only [blockStep_reserved hd, reservedWord, byPhase_idle hp, raiseFault_phase, hd]
        | instr i =>
          simp only [blockStep_instr hd, byPhase_idle hp, hd]
          cases i <;> rfl
      | active =>
        cases hd : decode c with
        | reserved code => simp only [blockStep_reserved hd, reservedWord, byPhase_active hp, raiseFault_phase, hd]
        | instr i =>
          simp only [blockStep_instr hd, byPhase_active hp, hd]
          cases i with
          | start w f => rfl
          | byte d => exact hp
          | finish => rfl
  · exact ⟨_, run_instrs hs hw, foldl_runInstr_phase_idle_iff is false hp⟩

end Sys2Proof.Machine
end

section
/-! A transaction as the host sees it (43_transaction.md R100), at its end and at each point on the way; and the checksum of
a buffer in which one byte is changed (R113). -/

namespace Sys2Proof.Machine

open Sys2Proof

/-! ### One changed byte (43_transaction.md R113) -/

/-- With one byte, different registers lead to different registers. -/
theorem upd_register_injective (w : Width) (d : Byte) : Function.Injective fun a => upd (params w) a d := by
  intro a b h
  have hxor := (reflectedShift_injective (rpoly_msb w)).iterate 8 h
  exact (BitVec.xor_left_inj _).mp hxor

/-- No byte brings two different registers together again. -/
theorem foldl_upd_injective (w : Width) (buf : List Byte) : Function.Injective (buf.foldl (upd (params w))) := by
  induction buf with
  | nil => exact Function.injective_id
  | cons d buf ih => exact ih.comp (upd_register_injective w d)

theorem fin_injective {n : Nat} (p : CrcParams n) : Function.Injective (fin p) := fun _ _ => (BitVec.xor_left_inj _).mp

/-- Settles O53: the changed byte splits the common register into two different ones, and no later byte and no final XOR
brings these together. -/
theorem oneByteDifferenceIsDetected : Obligations.OneByteDifferenceIsDetected := by
  intro w pre post d d' hne h
  rw [crc, crc, crcOf_eq_fin_accr (eight_le_bits w), crcOf_eq_fin_accr (eight_le_bits w), accr_append, accr_append] at h
  have hafter : upd (params w) (accr (params w) pre) d = upd (params w) (accr (params w) pre) d' :=
    foldl_upd_injective w post (fin_injective (params w) h)
  exact hne (upd_injective w _ hafter)

/-! ### The end of a transaction (43_transaction.md R100) -/

/-- The accumulator of an opened block is finalised to the checksum of its bytes. -/
theorem finalChecksum_accr (w : Width) (buf : List Byte) :
    finalChecksum w ((accr (params w) buf).setWidth 32) = crc w buf := by
  rw [finalChecksum, BitVec.setWidth_setWidth_of_le _ (bits_le_thirtyTwo w), BitVec.setWidth_eq, crc,
    crcOf_eq_fin_accr (eight_le_bits w)]

theorem finishedRes_accr (w : Width) (f : Format) (buf : List Byte) :
    finishedRes w f ((accr (params w) buf).setWidth 32) = pack (compute buf w f) := by
  rw [finishedRes, finalChecksum_accr, compute]

/-- The ports after the FINISH of a transaction, as listed under 43_transaction.md R100. -/
theorem outputs_closed (w : Width) (f : Format) (buf : List Byte) (b : Block) :
    outputs (closeTransaction (openedBlock w f buf b)) =
      { busy := false, fault := false, fcode := b.fcode, resValid := true, res := some (pack (compute buf w f)),
        resWidth := some (widthBit w), resFormat := some (formatBit f) } := by
  rw [← finishedRes_accr]
  rfl

theorem readResult_closed (w : Width) (f : Format) (buf : List Byte) (b : Block) :
    readResult (outputs (closeTransaction (openedBlock w f buf b))) = some (compute buf w f) := by
  rw [outputs_closed]
  exact congrArg some (unpack_pack_render f w (crc w buf))

/-! ### On the way through a transaction (43_transaction.md R100) -/

/-- The first edges of a stretch present the first of its words. -/
theorem presentedWords_prefix {pre post : List Edge} {ws vs : List CmdWord} (hpre : presentedWords pre = some ws)
    (h : presentedWords (pre ++ post) = some vs) : ws <+: vs := by
  induction pre generalizing ws vs with
  | nil =>
    obtain rfl : [] = ws := Option.some.inj hpre
    exact List.nil_prefix
  | cons e pre ih =>
    obtain ⟨he, hws⟩ | ⟨c, cs, he, hcs, rfl⟩ := presentedWords_cons hpre <;>
      obtain ⟨he', hvs⟩ | ⟨c', cs', he', hcs', rfl⟩ := presentedWords_cons h
    · exact ih hws hvs
    · simp [he] at he'
    · simp [he] at he'
    · obtain rfl : c = c' := Event.cmd.inj (he.symm.trans he')
      exact List.prefix_cons_inj c |>.mpr (ih hcs hcs')

/-- The commands of a transaction up to some point: none of them, START and the first bytes, or all. -/
theorem prefix_computeCommands_cases {w : Width} {f : Format} {buf : List Byte} {is : List Instr}
    (h : is <+: computeCommands w f buf) :
    is = [] ∨ (∃ bytes : List Byte, is = .start w f :: bytes.map .byte) ∨ is = computeCommands w f buf := by
  rw [computeCommands, ← List.cons_append, List.prefix_concat_iff] at h
  obtain rfl | h := h
  · exact .inr (.inr rfl)
  · obtain rfl | ⟨js, rfl, hjs⟩ := List.prefix_cons_iff.mp h
    · exact .inl rfl
    · obtain ⟨bytes, -, rfl⟩ := List.prefix_map_iff.mp hjs
      exact .inr (.inl ⟨bytes, rfl⟩)

/-- No part of a transaction faults, and one that is neither empty nor complete leaves it open, with no result held. -/
theorem foldl_runInstr_prefix {w : Width} {f : Format} {buf : List Byte} {is : List Instr} {b : Block}
    (hp : b.phase = .idle) (h : is <+: computeCommands w f buf) :
    (is.foldl runInstr b).phase ≠ .fault ∧ (0 < is.length → is.length < buf.length + 2 →
      (is.foldl runInstr b).phase = .active ∧ (is.foldl runInstr b).resValid = false) := by
  obtain rfl | ⟨bytes, rfl⟩ | rfl := prefix_computeCommands_cases h
  · simp [hp]
  · rw [foldl_runInstr_start_bytes w f bytes hp]
    exact ⟨by simp, fun _ _ => ⟨rfl, rfl⟩⟩
  · rw [foldl_runInstr_computeCommands w f buf hp]
    exact ⟨by simp, fun _ hlen => absurd hlen (by simp [computeCommands])⟩

theorem fault_eq_false_of_phase_ne {b : Block} (h : b.phase ≠ .fault) : (outputs b).fault = false :=
  Bool.eq_false_iff.mpr ((faultFlag_eq_true_iff b).not.mpr h)

/-- Settles O36: the end of the transaction by `run_transaction`, each point on the way by the commands presented so
far. -/
theorem transactionContract : Obligations.TransactionContract := by
  intro s w f buf es rest hp hs hw
  refine ⟨⟨_, run_transaction hp hs hw, rfl, rfl, ?_, readResult_closed w f buf _⟩, fun pre post ws hes hpre => ?_⟩
  · rw [← widthBit_eq, ← formatBit_eq]
    exact outputs_closed w f buf _
  · subst hes
    obtain ⟨is, his, rfl⟩ := List.prefix_map_iff.mp (presentedWords_prefix hpre hw)
    obtain ⟨hfault, hopen⟩ := foldl_runInstr_prefix hp his
    rw [List.length_map]
    refine ⟨_, run_instrs (hs.trans (List.append_assoc _ _ _)) hpre, fault_eq_false_of_phase_ne hfault,
      fun hpos hlt => ?_⟩
    obtain ⟨hactive, habsent⟩ := hopen hpos hlt
    exact ⟨(busyFlag_eq_true_iff _).mpr hactive, habsent⟩

end Sys2Proof.Machine
end

section
/-! The two lookup tables (44_lookup_tables.md R115 to R117). Their laws are those of the byte step from the zero register:
linear (`upd_xor`) and injective in the byte (`upd_injective`). -/

namespace Sys2Proof.Machine

open Sys2Proof

/-! ### The printed entries (44_lookup_tables.md R115, R116) -/

/-- Settles O46: the lengths by counting, the entries by `printedT16_getD` and `printedT32_getD`. -/
theorem printedTablesAreTheFormula : Obligations.PrintedTablesAreTheFormula :=
  ⟨by decide +kernel, by decide +kernel, fun k => ⟨printedT16_getD k, printedT32_getD k⟩⟩

/-! ### The laws of the tables (44_lookup_tables.md R117) -/

theorem tableEntry_zero {n : Nat} (p : CrcParams n) : tableEntry p 0#8 = 0#n := upd_zero_zero p

theorem tableEntry_xor {n : Nat} (p : CrcParams n) (j k : Byte) :
    tableEntry p (j ^^^ k) = tableEntry p j ^^^ tableEntry p k := by
  rw [tableEntry, tableEntry, tableEntry, ← upd_xor, BitVec.xor_self]

/-- A 1 in the lowest place leaves at once, and only the polynomial remains. -/
theorem reflectedShift_one {n : Nat} (hn : 0 < n) (rp : BitVec n) : reflectedShift rp 1#n = rp := by
  have hout : 1#n >>> 1 = 0#n := BitVec.eq_of_toNat_eq (by simp [Nat.shiftRight_eq_div_pow, Nat.mod_le])
  have hlow : (1#n).getLsbD 0 = true := by simp [hn]
  rw [reflectedShift_eq, hout, hlow, if_pos rfl, BitVec.zero_xor]

/-- The top bit of the index leaves at the eighth shift step only, so the entry is the reflected polynomial itself. -/
theorem tableEntry_top_bit {n : Nat} (hn : 8 ≤ n) (p : CrcParams n) : tableEntry p 0x80#8 = rpoly p := by
  have hlow : ∀ i < 7, ((0x80#8).setWidth n).getLsbD i = false := by
    intro i hi
    have hbyte : (0x80#8).getLsbD i = false := by decide +revert
    rw [BitVec.getLsbD_setWidth, hbyte, Bool.and_false]
  have hseven : (0x80#8).setWidth n >>> 7 = 1#n := by
    have hpow : 2 ^ 8 ≤ 2 ^ n := Nat.pow_le_pow_right (by decide) hn
    apply BitVec.eq_of_toNat_eq
    rw [BitVec.toNat_ushiftRight, BitVec.toNat_setWidth, BitVec.toNat_ofNat, BitVec.toNat_ofNat,
      Nat.mod_eq_of_lt (by omega), Nat.mod_eq_of_lt (show 1 < 2 ^ n by omega)]
    rfl
  rw [tableEntry, upd, BitVec.zero_xor, Function.iterate_succ_apply', reflectedShift_iterate_of_low_zero _ 7 _ hlow,
    hseven, reflectedShift_one (by omega)]

theorem tableEntry_injective (w : Width) : Function.Injective (tableEntry (params w)) := upd_injective w 0#w.bits

/-- Settles O47: the laws hold of the byte step from the zero register; the printed basis entries by running it. -/
theorem tableLaws : Obligations.TableLaws := by
  refine ⟨fun w => ⟨tableEntry_zero _, tableEntry_xor _, tableEntry_top_bit (eight_le_bits w) _,
    fun _ _ h => tableEntry_injective w h⟩, ?_, ?_⟩
  · decide +kernel
  · decide +kernel

end Sys2Proof.Machine
end

section
/-! Faults (60_exceptions.md): how phase FAULT is entered, which words enter it, and that it holds until a reset. -/

namespace Sys2Proof.Machine

open Sys2Proof

/-! ### Fault entry (60_exceptions.md R126) -/

theorem one_le_faultBits (c : FaultCode) : 1#3 ≤ faultBits c := by cases c <;> decide

/-- After fault entry the ports show the code and no result (10_state.md R23, R24). -/
theorem outputs_raiseFault (c : FaultCode) (b : Block) :
    outputs (raiseFault c b) =
      { busy := false, fault := true, fcode := faultBits c, resValid := false, res := none, resWidth := none,
        resFormat := none } := rfl

/-- Fault entry is the only way into phase FAULT. -/
theorem exists_blockStep_eq_raiseFault {ev : Event} {b : Block} (hp : b.phase ≠ .fault)
    (ht : (blockStep ev b).phase = .fault) : ∃ code, blockStep ev b = raiseFault code b := by
  obtain ⟨-, h⟩ | ⟨-, -, h⟩ | ⟨c, w, f, -, -, -, h⟩ | ⟨c, d, -, -, -, h⟩ | ⟨c, -, -, -, h⟩ |
    ⟨c, code, -, -, -, h⟩ := blockStep_cases ev b
  · simp [h] at ht
  · exact absurd (h ▸ ht) hp
  · simp [h] at ht
  · exact absurd (by simpa [h] using ht) hp
  · simp [h] at ht
  · exact ⟨code, h⟩

/-- Settles O24: a step that ends in FAULT is fault entry, which is the three writes. -/
theorem faultEntryDoesExactlyThreeWrites : Obligations.FaultEntryDoesExactlyThreeWrites := by
  intro s t ev hp hstep ht
  obtain rfl := stepEvent_eq_next_iff.mp hstep
  obtain ⟨code, h⟩ := exists_blockStep_eq_raiseFault hp ht
  refine ⟨faultBits code, one_le_faultBits code, faultBits_le_five code, ?_, ?_⟩
  · rw [State.onBlock, h]
    rfl
  · rw [onBlock_toBlock, h, outputs_raiseFault]

/-! ### Which words fault (60_exceptions.md R125) -/

theorem blockStep_instr_of_idle {c : CmdWord} {i : Instr} {b : Block} (hd : decode c = .instr i)
    (hp : b.phase = .idle) : blockStep (.cmd c) b = onIdle i b := by
  rw [blockStep_instr hd, byPhase_idle hp]

theorem blockStep_instr_of_active {c : CmdWord} {i : Instr} {b : Block} (hd : decode c = .instr i)
    (hp : b.phase = .active) : blockStep (.cmd c) b = onActive i b := by
  rw [blockStep_instr hd, byPhase_active hp]

/-- A reserved word faults with its own code, whatever the phase. -/
theorem blockStep_reserved_of_ne_fault {c : CmdWord} {code : FaultCode} {b : Block} (hd : decode c = .reserved code)
    (hp : b.phase ≠ .fault) : blockStep (.cmd c) b = raiseFault code b := by
  rw [blockStep_reserved hd, reservedWord_of_ne_fault hp]

/-- Settles O25: the range of a word gives what it decodes to (`decodeFollowsTheWordRanges`); a reserved word faults in
both phases, a command in the one phase where its effect is a fault. -/
theorem faultCodeIsDecidedByWordAndPhase : Obligations.FaultCodeIsDecidedByWordAndPhase := by
  intro s c hp
  refine ⟨_, stepEvent_eq _ s, ?_⟩
  rw [onBlock_toBlock]
  obtain ⟨hzero, hstart, hmbz, hbyte, hfinish, hmbz'⟩ := decodeFollowsTheWordRanges c
  split_ifs with h₀ h₁ h₂ h₃
  · rw [blockStep_reserved_of_ne_fault (hzero h₀) hp]
    exact ⟨rfl, rfl⟩
  · have hd : decode c = .reserved .reservedField := h₁.elim (fun h => hmbz h.1 h.2) hmbz'
    rw [blockStep_reserved_of_ne_fault hd hp]
    exact ⟨rfl, rfl⟩
  · have hd := hstart (by omega) h₂
    refine ⟨fun hactive => ?_, fun hidle => ?_⟩
    · rw [blockStep_instr_of_active hd hactive]
      exact ⟨rfl, rfl⟩
    · simp [blockStep_instr_of_idle hd hidle, onIdle]
  · have hd := hbyte (by omega) h₃
    refine ⟨fun hidle => ?_, fun hactive => ?_⟩
    · rw [blockStep_instr_of_idle hd hidle]
      exact ⟨rfl, rfl⟩
    · simp [blockStep_instr_of_active hd hactive, onActive, hactive]
  · have hd := hfinish (by omega)
    refine ⟨fun hidle => ?_, fun hactive => ?_⟩
    · rw [blockStep_instr_of_idle hd hidle]
      exact ⟨rfl, rfl⟩
    · simp [blockStep_instr_of_active hd hactive, onActive]

/-! ### In phase FAULT (60_exceptions.md R127, R131) -/

/-- Settles O26: a stretch without a reset does what its words do, and a word does nothing in FAULT. -/
theorem faultIgnoresEverythingUntilReset : Obligations.FaultIgnoresEverythingUntilReset := by
  intro s es rest ws hp hs hw
  rw [run_edges es rest s hs, afterEdges_words hw, List.foldl_fixed' (blockStep_of_fault hp) ws]

end Sys2Proof.Machine
end

section
/-! Reset (70_reset_and_hazards.md R137, R138; 60_exceptions.md R128), and how a run from reset ends (R149). -/

namespace Sys2Proof.Machine

open Sys2Proof

/-! ### Reset (70_reset_and_hazards.md R137, R138) -/

/-- A stretch that ends with `rst = 1` leaves the reset block, whatever came before that edge. -/
theorem afterEdges_append_rst (es : List Edge) {e : Edge} (he : e.rst = true) (b : Block) :
    afterEdges (es ++ [e]) b = Block.reset := by
  rw [afterEdges_append, afterEdges_cons, event_of_rst he, blockStep_reset, afterEdges_nil]

/-- Settles O9: of a stretch of reset edges only the last one matters. -/
theorem resetEdgeHasPriority : Obligations.ResetEdgeHasPriority := by
  intro s es rest hne hrst hs
  refine ⟨_, stepEvent_eq .reset _, ?_⟩
  rw [run_edges es rest s hs]
  obtain ⟨pre, e, rfl⟩ := (List.eq_nil_or_concat' es).resolve_left hne
  rw [afterEdges_append_rst pre (hrst e (by simp)), State.onBlock, blockStep_reset]

/-- Only a reset changes a block in phase FAULT (60_exceptions.md R127, R128). -/
theorem eq_reset_of_blockStep_ne_of_fault {b : Block} {ev : Event} (hp : b.phase = .fault) (h : blockStep ev b ≠ b) :
    ev = .reset := by
  cases ev with
  | reset => rfl
  | idle => exact absurd (blockStep_idle b) h
  | cmd c => exact absurd (blockStep_of_fault hp c) h

/-- Settles O10: the reset step answers `Block.reset`, and every other event leaves a block in FAULT as it is, so it keeps
the phase and the code. -/
theorem resetStepWritesAndIsTheOnlyExit : Obligations.ResetStepWritesAndIsTheOnlyExit := by
  refine ⟨fun s => ⟨_, stepEvent_eq .reset s, rfl, rfl, rfl, rfl⟩, fun s t ev hp hstep ht => ?_,
    fun s t ev hp hstep ht => ?_⟩
  · obtain rfl := stepEvent_eq_next_iff.mp hstep
    exact eq_reset_of_blockStep_ne_of_fault hp fun h => ht ((congrArg Block.phase h).trans hp)
  · obtain rfl := stepEvent_eq_next_iff.mp hstep
    exact eq_reset_of_blockStep_ne_of_fault hp fun h => ht (congrArg Block.fcode h)

/-! ### The end of a run, told by the final state (70_reset_and_hazards.md R149) -/

/-- What the final state says of its phase and of a held result, and how the run ends there. -/
theorem runEnd_cases (b : Block) :
    (b.phase = .fault ∧ runEnd b = .faulted) ∨ (b.phase = .active ∧ runEnd b = .unfinished) ∨
      (b.phase = .idle ∧ b.resValid = true ∧ ∃ r, runEnd b = .complete r) ∨
      (b.phase = .idle ∧ b.resValid = false ∧ runEnd b = .nothingYet) := by
  cases hp : b.phase with
  | fault => simp [runEnd, hp]
  | active => simp [runEnd, hp]
  | idle => cases hv : b.resValid <;> simp [runEnd, hp, readResult, outputs, whileValid, hv]

theorem runEnd_eq_faulted_iff (b : Block) : runEnd b = .faulted ↔ b.phase = .fault := by
  obtain ⟨hp, h⟩ | ⟨hp, h⟩ | ⟨hp, -, r, h⟩ | ⟨hp, -, h⟩ := runEnd_cases b <;> simp [hp, h]

theorem runEnd_eq_unfinished_iff (b : Block) : runEnd b = .unfinished ↔ b.phase = .active := by
  obtain ⟨hp, h⟩ | ⟨hp, h⟩ | ⟨hp, -, r, h⟩ | ⟨hp, -, h⟩ := runEnd_cases b <;> simp [hp, h]

theorem runEnd_eq_nothingYet_iff (b : Block) : runEnd b = .nothingYet ↔ b.phase = .idle ∧ b.resValid = false := by
  obtain ⟨hp, h⟩ | ⟨hp, h⟩ | ⟨hp, hv, r, h⟩ | ⟨hp, hv, h⟩ := runEnd_cases b <;> simp [*]

theorem exists_runEnd_eq_complete_iff (b : Block) :
    (∃ r, runEnd b = .complete r) ↔ b.phase = .idle ∧ b.resValid = true := by
  obtain ⟨hp, h⟩ | ⟨hp, h⟩ | ⟨hp, hv, r, h⟩ | ⟨hp, hv, h⟩ := runEnd_cases b <;> simp [*]

/-! ### The final state, told by the words presented -/

/-- The block after some command words, accepted one after the other. -/
def afterWords (ws : List CmdWord) (b : Block) : Block := ws.foldl (fun c w => blockStep (.cmd w) c) b

theorem afterWords_cons (w : CmdWord) (ws : List CmdWord) (b : Block) :
    afterWords (w :: ws) b = afterWords ws (blockStep (.cmd w) b) := rfl

theorem afterWords_concat (ws : List CmdWord) (w : CmdWord) (b : Block) :
    afterWords (ws ++ [w]) b = blockStep (.cmd w) (afterWords ws b) := List.foldl_concat ..

theorem afterWords_map_encode (is : List Instr) (b : Block) : afterWords (is.map encode) b = is.foldl runInstr b := by
  rw [afterWords, List.foldl_map]
  simp only [blockStep_encode]

theorem afterWords_of_fault {b : Block} (hp : b.phase = .fault) (ws : List CmdWord) : afterWords ws b = b :=
  List.foldl_fixed' (blockStep_of_fault hp) ws

/-- After a reserved word a fault is recorded, whether it raised it or found it. -/
theorem blockStep_reserved_phase {c : CmdWord} {code : FaultCode} (hd : decode c = .reserved code) (b : Block) :
    (blockStep (.cmd c) b).phase = .fault := by
  by_cases hp : b.phase = .fault
  · rw [blockStep_of_fault hp, hp]
  · rw [blockStep_reserved_of_ne_fault hd hp, raiseFault_phase]

/-- Words that lead to no fault are the words of commands. -/
theorem exists_map_encode_of_no_fault {ws : List CmdWord} {b : Block} (h : (afterWords ws b).phase ≠ .fault) :
    ∃ is : List Instr, ws = is.map encode := by
  induction ws generalizing b with
  | nil => exact ⟨[], rfl⟩
  | cons w ws ih =>
    rw [afterWords_cons] at h
    cases hd : decode w with
    | reserved code =>
      have hp := blockStep_reserved_phase hd b
      rw [afterWords_of_fault hp] at h
      exact absurd hp h
    | instr i =>
      obtain ⟨is, rfl⟩ := ih h
      exact ⟨i :: is, by rw [List.map_cons, encode_of_decode hd]⟩

/-- From IDLE, the words that lead back to IDLE are those of commands in a legal order (42_commands.md R97). -/
theorem afterWords_phase_idle_iff (ws : List CmdWord) {b : Block} (hp : b.phase = .idle) :
    (afterWords ws b).phase = .idle ↔ ∃ is : List Instr, ws = is.map encode ∧ legalOrder false is = true := by
  constructor
  · intro h
    obtain ⟨is, rfl⟩ := exists_map_encode_of_no_fault (by rw [h]; decide)
    rw [afterWords_map_encode] at h
    exact ⟨is, rfl, (foldl_runInstr_phase_idle_iff is false hp).mp h⟩
  · rintro ⟨is, rfl, hlegal⟩
    rw [afterWords_map_encode]
    exact (foldl_runInstr_phase_idle_iff is false hp).mpr hlegal

/-- The one word that leads to IDLE is a FINISH that closes a transaction, and it leaves a result. -/
theorem blockStep_cmd_resValid_of_idle {c : CmdWord} {b : Block} (h : (blockStep (.cmd c) b).phase = .idle) :
    (blockStep (.cmd c) b).resValid = true := by
  obtain ⟨hc, -⟩ | ⟨-, hc, hb⟩ | ⟨_, w, f, -, -, -, hb⟩ | ⟨_, d, -, -, hp, hb⟩ | ⟨_, -, -, -, hb⟩ |
    ⟨_, code, -, -, -, hb⟩ := blockStep_cases (.cmd c) b
  · cases hc
  · have hp : b.phase = .fault := hc.resolve_left (by simp)
    simp [hb, hp] at h
  · simp [hb] at h
  · simp [hb, hp] at h
  · rw [hb, closeTransaction_resValid]
  · simp [hb] at h

/-- A run from reset that ends in IDLE holds a result exactly if it presented a word. -/
theorem afterWords_reset_resValid_iff {ws : List CmdWord} (h : (afterWords ws Block.reset).phase = .idle) :
    (afterWords ws Block.reset).resValid = true ↔ ws ≠ [] := by
  obtain rfl | ⟨pre, w, rfl⟩ := List.eq_nil_or_concat' ws
  · simp [afterWords]
  · rw [afterWords_concat] at h ⊢
    simp [blockStep_cmd_resValid_of_idle h]

/-- A run from reset has nothing yet exactly if it presented no word. -/
theorem runEnd_afterWords_reset_nothingYet_iff (ws : List CmdWord) :
    runEnd (afterWords ws Block.reset) = .nothingYet ↔ ws = [] := by
  rw [runEnd_eq_nothingYet_iff]
  constructor
  · rintro ⟨hp, hv⟩
    by_contra hne
    simp [(afterWords_reset_resValid_iff hp).mpr hne] at hv
  · rintro rfl
    exact ⟨rfl, rfl⟩

/-- A run from reset is complete exactly if it presented a non-empty legal sequence. -/
theorem runEnd_afterWords_reset_complete_iff (ws : List CmdWord) :
    (∃ r, runEnd (afterWords ws Block.reset) = .complete r) ↔
      ∃ is : List Instr, is ≠ [] ∧ ws = is.map encode ∧ legalOrder false is = true := by
  rw [exists_runEnd_eq_complete_iff]
  constructor
  · rintro ⟨hp, hv⟩
    obtain ⟨is, rfl, hlegal⟩ := (afterWords_phase_idle_iff ws reset_phase).mp hp
    have hne := (afterWords_reset_resValid_iff hp).mp hv
    exact ⟨is, List.map_eq_nil_iff.not.mp hne, rfl, hlegal⟩
  · rintro ⟨is, hne, rfl, hlegal⟩
    have hp := (afterWords_phase_idle_iff _ reset_phase).mpr ⟨is, rfl, hlegal⟩
    exact ⟨hp, (afterWords_reset_resValid_iff hp).mpr (List.map_eq_nil_iff.not.mpr hne)⟩

/-- Settles O29: the run leaves the reset block after its words; the phase tells the fault and the open transaction, the
words tell the rest. -/
theorem runsEndByWhatTheyPresented : Obligations.RunsEndByWhatTheyPresented := by
  intro es ws hw
  have hrun : Host.Core.run core es.length { State.reset with inputs := es } =
      .next { toBlock := afterWords ws Block.reset, inputs := [] } := by
    rw [run_edges es [] _ (List.append_nil es).symm, afterEdges_words hw]
    rfl
  refine ⟨_, hrun, runEnd_afterWords_reset_nothingYet_iff ws, runEnd_afterWords_reset_complete_iff ws, ?_, ?_⟩
  · exact (runEnd_eq_faulted_iff _).trans (faultFlag_eq_true_iff _).symm
  · exact (runEnd_eq_unfinished_iff _).trans (busyFlag_eq_true_iff _).symm

end Sys2Proof.Machine
end
